-- ==== Sys2Proof/Word.lean ====
section
/-! DEFINITION. The two word types of the block: bytes of IN, OUT and the planes, and 32-bit registers and command words (R34, R80, R110). -/

namespace Sys2Proof

/-- A byte of IN or OUT, or one plane sample (R80). -/
abbrev Byte := BitVec 8

/-- A host register or a command word (R34, R110). -/
abbrev Word := BitVec 32

end Sys2Proof
end

