-- ==== Sys2Proof/Config.lean ====
section
/-! DEFINITION. What an implementation fixes (R6), and the values the spec leaves open: constants with no body, of which nothing can be proved. -/

namespace Sys2Proof.Config

/-- `ACC_BITS` (R6): the width of the prefetch accumulator; no rule reads it (R33, log 16). -/
def accBits : Nat := 32

/-- `NT` (R6): table ids per class, 0..3. -/
def tableIds : Nat := 4

/-- `NCOMP` (R6): component slots. -/
def componentSlots : Nat := 3

/-- `NSLOT` (R6): scan component slots. -/
def scanSlots : Nat := 4

/-- `MAX_X` and `MAX_Y` (R6): the largest frame dimension. -/
def maxDimension : Nat := 65535

/-- `OUT_LEN` (R6, R83, D35): the one OPEN parameter. It is the value `State.outLen` has at reset; the state carries it so
that every statement holds for every size of the window (log 8). -/
opaque outLen : Nat

/-! Free values of R321 ("unspecified"; 93_implementation_defined.md I8: any value). The first argument is the counter
`State.freeIx`, so that two DecodeErrors need not leave the same values (log 3). -/

/-- RES after a DecodeError. -/
opaque freeRes : Nat → Word

/-- SEG after a DecodeError. -/
opaque freeSeg : Nat → Word

/-- BITPOS after a DecodeError. -/
opaque freeBitpos : Nat → BitVec 35

/-- MCUCNT after a DecodeError. -/
opaque freeMcucnt : Nat → Word

/-- RSTNEXT after a DecodeError. -/
opaque freeRstnext : Nat → BitVec 3

/-- PRED[c] after a DecodeError. -/
opaque freePred : Nat → Nat → BitVec 16

/-- COEF[i] after a DecodeError. -/
opaque freeCoef : Nat → Nat → BitVec 16

/-- DQ[i] after a DecodeError. -/
opaque freeDq : Nat → Nat → BitVec 32

/-- SAMP[i] after a DecodeError. -/
opaque freeSamp : Nat → Nat → Byte

/-- The valid samples of plane c after a DecodeError, in any order (the machine sorts them). -/
opaque freePlane : Nat → Nat → List (Nat × Byte)

/-- Byte i of the row of a CC_ROW that a hardware reset interrupts (R351, 93_implementation_defined.md I24; log 14). -/
opaque freeRowByte : Nat → Nat → Byte

end Sys2Proof.Config
end

