-- ==== Sys2Proof/Syntax.lean ====
section
/-! DEFINITION. The commands: one constructor per row of spec/opcode_table.json, each field as wide as R111 gives it. -/

namespace Sys2Proof

/-- The 24 commands (R111, R115). Fields are kept at their encoded width, since the block, not the host, judges their
values (R114): block fields by R117, stream fields by each command's own rule. -/
inductive Instr where
  /-- SRESET, R140. -/
  | sreset
  /-- SET_INPUT, R141. -/
  | setInput
  /-- START, R142. -/
  | start (ord : BitVec 2)
  /-- FINISH, R143. -/
  | finish
  /-- ABORT, R144. -/
  | abort
  /-- RD_BUF, R145. -/
  | rdBuf (sel : BitVec 3) (idx : BitVec 6)
  /-- LOAD_QT, R170. -/
  | loadQt (pq tq : BitVec 4)
  /-- LOAD_HT, R171. -/
  | loadHt (tc th : BitVec 4)
  /-- SET_FRAME, R172. -/
  | setFrame (p nf : BitVec 8)
  /-- SET_COMP, R173. -/
  | setComp (c : BitVec 2) (h v : BitVec 4) (tq : BitVec 8)
  /-- SET_DRI, R174. -/
  | setDri
  /-- SET_SCAN_COMP, R175. -/
  | setScanComp (s c : BitVec 2) (td ta : BitVec 4)
  /-- START_SCAN, R178. -/
  | startScan (ns : BitVec 8)
  /-- DEC_HUFF, R230. -/
  | decHuff (tc : BitVec 1) (th : BitVec 2)
  /-- GET_BITS, R231. -/
  | getBits (n : BitVec 5)
  /-- GET_EXT, R232. -/
  | getExt (n : BitVec 5)
  /-- DEC_BLOCK, R233. -/
  | decBlock (s : BitVec 2)
  /-- DEC_MCU, R234. -/
  | decMcu
  /-- SCAN_END, R235. -/
  | scanEnd
  /-- DEQUANT, R270. -/
  | dequant (tq : BitVec 2)
  /-- IDCT, R271. -/
  | idct
  /-- PUT_BLOCK, R272. -/
  | putBlock (c : BitVec 2)
  /-- CC_ROW, R293. -/
  | ccRow
  /-- CC_PIX, R294. -/
  | ccPix
  deriving DecidableEq, Repr

/-- The opcode field of each command (R115): what ERR.EOP and PVERR.PVOP name (R36, R37). -/
def Instr.op : Instr → BitVec 6
  | .sreset => 0x01
  | .setInput => 0x02
  | .start _ => 0x03
  | .finish => 0x04
  | .abort => 0x05
  | .rdBuf _ _ => 0x06
  | .loadQt _ _ => 0x08
  | .loadHt _ _ => 0x09
  | .setFrame _ _ => 0x0A
  | .setComp _ _ _ _ => 0x0B
  | .setDri => 0x0C
  | .setScanComp _ _ _ _ => 0x0D
  | .startScan _ => 0x0E
  | .decHuff _ _ => 0x10
  | .getBits _ => 0x11
  | .getExt _ => 0x12
  | .decBlock _ => 0x13
  | .decMcu => 0x14
  | .scanEnd => 0x15
  | .dequant _ => 0x18
  | .idct => 0x19
  | .putBlock _ => 0x1A
  | .ccRow => 0x1C
  | .ccPix => 0x1D

end Sys2Proof
end

