-- ==== Sys2Proof/WellFormed.lean ====
section
/-! DEFINITION. Well-formed commands: every block field is in the range R117 gives it. A word whose field is out of range
still decodes to its command and is refused BAD_FIELD by the command's meaning, before the state check (R116, R318; log 12). -/

namespace Sys2Proof

/-- R117: the block fields are in range. Stream fields take every value (R114), so they have no check here. -/
def Instr.wf : Instr → Bool
  | .start ord => ord.toNat ≤ 1
  | .rdBuf sel idx => sel.toNat ≤ 3 && (sel.toNat != 3 || idx.toNat ≤ 2)
  | .setComp c _ _ _ => c.toNat ≤ 2
  | .setScanComp _ c _ _ => c.toNat ≤ 2
  | .putBlock c => c.toNat ≤ 2
  | .getBits n => n.toNat ≤ 16
  | .getExt n => n.toNat ≤ 15
  | .sreset | .setInput | .finish | .abort => true
  | .loadQt _ _ | .loadHt _ _ | .setFrame _ _ | .setDri | .startScan _ => true
  | .decHuff _ _ | .decBlock _ | .decMcu | .scanEnd => true
  | .dequant _ | .idct | .ccRow | .ccPix => true

end Sys2Proof
end

