-- ==== Sys2Proof/Decode.lean ====
section
/-! DEFINITION. Decoding a command word (R110, R111, R115, R116), total and rejecting by name, and the encoder written from
the same format table. -/

namespace Sys2Proof

/-- Why a word is no command (the first two checks of R116 and R318). -/
inductive DecodeReject where
  /-- The op field is reserved in R115. -/
  | illegalOpcode
  /-- A reserved bit of the format is 1 (R111). -/
  | reservedBits
  deriving DecidableEq, Repr

/-- The opcode field, bits [31:26] (R110). -/
def opField (w : Word) : BitVec 6 := w.extractLsb' 26 6

/-- `v[lo+n-1 : lo]` of a command word (R7, R112: unsigned). -/
def field (w : Word) (lo n : Nat) : BitVec n := w.extractLsb' lo n

/-- A command whose format has the given reserved bits: refused when one of them is 1 (R116). -/
def withReserved (mask w : Word) (i : Instr) : Except DecodeReject Instr :=
  if w &&& mask = 0 then .ok i else .error .reservedBits

/-- R116's first two checks, over the formats of R111 and the opcode map of R115. -/
def decode (w : Word) : Except DecodeReject Instr :=
  match (opField w).toNat with
  | 0x01 => withReserved 0x03FFFFFF w .sreset
  | 0x02 => withReserved 0x03FFFFFF w .setInput
  | 0x03 => withReserved 0x03FFFFFC w (.start (field w 0 2))
  | 0x04 => withReserved 0x03FFFFFF w .finish
  | 0x05 => withReserved 0x03FFFFFF w .abort
  | 0x06 => withReserved 0x03FFF8C0 w (.rdBuf (field w 8 3) (field w 0 6))
  | 0x08 => withReserved 0x03FFFF00 w (.loadQt (field w 4 4) (field w 0 4))
  | 0x09 => withReserved 0x03FFFF00 w (.loadHt (field w 4 4) (field w 0 4))
  | 0x0A => withReserved 0x03FF0000 w (.setFrame (field w 8 8) (field w 0 8))
  | 0x0B => withReserved 0x03FC0000 w (.setComp (field w 16 2) (field w 12 4) (field w 8 4) (field w 0 8))
  | 0x0C => withReserved 0x03FFFFFF w .setDri
  | 0x0D => withReserved 0x03CCFF00 w (.setScanComp (field w 20 2) (field w 16 2) (field w 4 4) (field w 0 4))
  | 0x0E => withReserved 0x03FFFF00 w (.startScan (field w 0 8))
  | 0x10 => withReserved 0x03FFFFEC w (.decHuff (field w 4 1) (field w 0 2))
  | 0x11 => withReserved 0x03FFFFE0 w (.getBits (field w 0 5))
  | 0x12 => withReserved 0x03FFFFE0 w (.getExt (field w 0 5))
  | 0x13 => withReserved 0x03FFFFFC w (.decBlock (field w 0 2))
  | 0x14 => withReserved 0x03FFFFFF w .decMcu
  | 0x15 => withReserved 0x03FFFFFF w .scanEnd
  | 0x18 => withReserved 0x03FFFFFC w (.dequant (field w 0 2))
  | 0x19 => withReserved 0x03FFFFFF w .idct
  | 0x1A => withReserved 0x03FFFFFC w (.putBlock (field w 0 2))
  | 0x1C => withReserved 0x03FFFFFF w .ccRow
  | 0x1D => withReserved 0x03FFFFFF w .ccPix
  | _ => .error .illegalOpcode

/-- The word of a command: its opcode and its fields at the places R111 gives them, every reserved bit 0 (R110). -/
def encode : Instr → Word
  | .sreset => 0x01#6 ++ 0#26
  | .setInput => 0x02#6 ++ 0#26
  | .start ord => 0x03#6 ++ 0#24 ++ ord
  | .finish => 0x04#6 ++ 0#26
  | .abort => 0x05#6 ++ 0#26
  | .rdBuf sel idx => 0x06#6 ++ 0#15 ++ sel ++ 0#2 ++ idx
  | .loadQt pq tq => 0x08#6 ++ 0#18 ++ pq ++ tq
  | .loadHt tc th => 0x09#6 ++ 0#18 ++ tc ++ th
  | .setFrame p nf => 0x0A#6 ++ 0#10 ++ p ++ nf
  | .setComp c h v tq => 0x0B#6 ++ 0#8 ++ c ++ h ++ v ++ tq
  | .setDri => 0x0C#6 ++ 0#26
  | .setScanComp s c td ta => 0x0D#6 ++ 0#4 ++ s ++ 0#2 ++ c ++ 0#8 ++ td ++ ta
  | .startScan ns => 0x0E#6 ++ 0#18 ++ ns
  | .decHuff tc th => 0x10#6 ++ 0#21 ++ tc ++ 0#2 ++ th
  | .getBits n => 0x11#6 ++ 0#21 ++ n
  | .getExt n => 0x12#6 ++ 0#21 ++ n
  | .decBlock s => 0x13#6 ++ 0#24 ++ s
  | .decMcu => 0x14#6 ++ 0#26
  | .scanEnd => 0x15#6 ++ 0#26
  | .dequant tq => 0x18#6 ++ 0#24 ++ tq
  | .idct => 0x19#6 ++ 0#26
  | .putBlock c => 0x1A#6 ++ 0#24 ++ c
  | .ccRow => 0x1C#6 ++ 0#26
  | .ccPix => 0x1D#6 ++ 0#26

/-- The host's view of the decoder: the command of the word whose bits are `w`. Every command is 32 bits (R110), so `nbits`
chooses nothing. -/
def decodeTableWord (_nbits w : Nat) : Option Instr :=
  match decode (BitVec.ofNat 32 w) with
  | .ok i => some i
  | .error _ => none

end Sys2Proof
end

