-- ==== Sys2Proof/Machine/State.lean ====
section
/-! DEFINITION. The state of the block as plain data: every element of 10_state.md under its own name, the two byte spaces
and the planes of 20_memory.md, the host's pending accesses, and the reset state (R55). -/

namespace Sys2Proof.Machine

/-- STATUS.STATE (R35). -/
inductive Session where
  | empty
  | started
  | finished
  | failed
  | aborted
  deriving DecidableEq, Repr

/-- STATUS.RESULT (R35, R313). -/
inductive Result where
  | ok
  | error
  | precond
  deriving DecidableEq, Repr

/-- STATUS.CORDER (R35): the channel order chosen at START. -/
inductive ChannelOrder where
  | rgb
  | bgr
  deriving DecidableEq, Repr

/-- The class of a DecodeError (R36, R314). -/
inductive ErrClass where
  | malformed
  | unsupported
  | decodeFault
  deriving DecidableEq, Repr

/-- The causes of a DecodeError, in the order of R316. -/
inductive ErrCause where
  | truncTable
  | badTableClass
  | badTableId
  | badQtPrecision
  | htCount
  | htCodespace
  | htDcSymbol
  | badDimension
  | badNf
  | badSampling
  | qtUndefined
  | htUndefined
  | badNs
  | scanOrder
  | mcuTooBig
  | precision
  | components
  | dnlHeight
  | exhaustedMarker
  | exhaustedEof
  | badCode
  | coefOverflow
  | rstTrailing
  | rstMissing
  | rstMismatch
  | endTrailing
  | endNoMarker
  | endUnexpectedRst
  | noEoi
  deriving DecidableEq, Repr

/-- The causes of a precondition refusal, in the order of R317. -/
inductive PvCause where
  | illegalOpcode
  | reservedBits
  | badField
  | wrongState
  | noFrame
  | compUnset
  | badComp
  | badSlot
  | slotUnset
  | scanDone
  | scanIncomplete
  | rowLimit
  | outRange
  | notReady
  | blockRange
  | tableUndefined
  | rowsPending
  | scanActive
  | noScan
  deriving DecidableEq, Repr

/-- How a command ends when it does not end OK (R313): `raise DecodeError` or `raise Precond` (R9). -/
inductive Raise where
  /-- R314. -/
  | decodeError (cause : ErrCause)
  /-- R315. -/
  | precond (cause : PvCause)
  deriving DecidableEq, Repr

/-- One value for each component slot 0, 1, 2 (R12, R50): Y, Cb, Cr when there are three (R53). -/
structure Tri (α : Type) where
  c0 : α
  c1 : α
  c2 : α
  deriving DecidableEq, Repr

/-- One value for each table id or scan slot 0..3 (R42, R43, R45). -/
structure Quad (α : Type) where
  i0 : α
  i1 : α
  i2 : α
  i3 : α
  deriving DecidableEq, Repr

/-- One Huffman table `HT[tc][th]` (R42). `huffval` lists the meaningful symbols, the first `sum(BITS)` of HUFFVAL[0..255]
(log 5). Entry l-1 of `bits`, `first` and `off` is the spec's BITS[l], FIRST[l] and OFF[l], l = 1..16. -/
structure HuffTable where
  hvalid : Bool
  bits : Vector Byte 16
  huffval : List Byte
  first : Vector Nat 16
  off : Vector Nat 16
  deriving DecidableEq, Repr

/-- One quantisation table `QT[t]`, its entries in natural order (R43). -/
structure QuantTable where
  qvalid : Bool
  q : Vector (BitVec 16) 64
  deriving DecidableEq, Repr

/-- What SET_COMP records of one component slot (R50). -/
structure CompCfg where
  cset : Bool
  h : BitVec 4
  v : BitVec 4
  tq : BitVec 2
  deriving DecidableEq, Repr

/-- The derived geometry of one component slot (R51): the plane size in blocks, the component size in samples. -/
structure CompGeom where
  pbw : Nat
  pbh : Nat
  xc : Nat
  yc : Nat
  deriving DecidableEq, Repr

/-- One scan slot `SC[s]` (R45). -/
structure ScanSlot where
  sset : Bool
  scc : BitVec 2
  td : BitVec 2
  ta : BitVec 2
  deriving DecidableEq, Repr

/-- A byte space (R80), in the canonical form of `Memory.wf`. -/
abbrev Memory := List Host.Cell

/-- The samples of one component plane whose SVALID bit is 1, by the key of their position (R52; log 6). -/
abbrev Plane := List (Nat × Byte)

/-- What the outside world can do to the block: the host's accesses (R30, R34, R88) and hardware reset (R350, R351). -/
inductive HostOp where
  /-- A register write of `bytes` bytes at byte offset `off` (R34, R88). -/
  | write (off : BitVec 8) (bytes : Nat) (value : Word)
  /-- A register read of `bytes` bytes at byte offset `off` (R34, R88, R91). -/
  | read (off : BitVec 8) (bytes : Nat)
  /-- A hardware reset between two commands (R350, R351). -/
  | hardwareReset
  /-- A hardware reset that cuts short the CMD write of word `w` (R351, 93_implementation_defined.md I24). -/
  | resetDuring (w : Word)
  /-- The host supplies the compressed buffer IN (R30, R81, R82). -/
  | supplyIn (bytes : List Byte)
  /-- The host supplies the destination buffer: a window of `len` bytes and what it holds (R30, R83, R353; log 8). -/
  | supplyOut (len : Nat) (bytes : List Byte)
  deriving DecidableEq, Repr

/-- Why the machine is stuck. -/
inductive Fault where
  /-- Raised by `HostOp.supplyIn` while a session is in progress: R82 leaves the host no such move, and
  93_implementation_defined.md I20 calls it stuck. Safe: the model stops where a run is outside the spec. -/
  | inputChangedInSession
  deriving DecidableEq, Repr

/-- Why the model gives an access no meaning. -/
inductive Refusal where
  /-- Raised by a refused arm of `exec`: the command has no meaning yet. Safe. No arm raises it. -/
  | notModelled (mnemonic : String)
  /-- Raised by a host register access that is not an aligned 32-bit word: "A sub-word, wider or misaligned access is not
  defined by this spec; a model refuses it" (R88; 93_implementation_defined.md I18). Safe. -/
  | registerAccess
  deriving DecidableEq, Repr

/-- The block with its byte spaces and the host's pending accesses. -/
structure State where
  /-- ARG (R32). -/
  arg : Word
  /-- RES (R32). -/
  res : Word
  /-- STATUS.RESULT (R35). -/
  result : Result
  /-- STATUS.STATE (R35). -/
  sess : Session
  /-- STATUS.SCANACT (R35). -/
  scanact : Bool
  /-- STATUS.FRAMESET (R35). -/
  frameset : Bool
  /-- STATUS.CORDER (R35). -/
  corder : ChannelOrder
  /-- ERR (R36). -/
  err : Word
  /-- PVERR (R37). -/
  pverr : Word
  /-- WIDTH (R39). -/
  width : BitVec 16
  /-- HEIGHT (R39). -/
  height : BitVec 16
  /-- ROW (R40). -/
  row : BitVec 16
  /-- IN_LEN (R41). -/
  inLen : Word
  /-- HT[0][0..3], class DC (R42). -/
  htDc : Quad HuffTable
  /-- HT[1][0..3], class AC (R42). -/
  htAc : Quad HuffTable
  /-- QT[0..3] (R43). -/
  qt : Quad QuantTable
  /-- SEG (R44). -/
  seg : Word
  /-- BITPOS, "a non-negative integer of at most 35 bits" (R44). -/
  bitpos : BitVec 35
  /-- NS (R45), as wide as FRAMEINFO shows it (R34). -/
  ns : BitVec 3
  /-- SC[0..3] (R45). -/
  sc : Quad ScanSlot
  /-- MCUCNT (R45). -/
  mcucnt : Word
  /-- MCUTOT (R45). -/
  mcutot : Word
  /-- MARKER (R46). -/
  marker : Byte
  /-- RI (R47). -/
  ri : BitVec 16
  /-- RSTNEXT (R47). -/
  rstnext : BitVec 3
  /-- PRED[0..2], two's complement (R48). -/
  pred : Tri (BitVec 16)
  /-- COEF[0..63], two's complement, natural order (R49). -/
  coef : Vector (BitVec 16) 64
  /-- DQ[0..63], two's complement, natural order (R49). -/
  dq : Vector (BitVec 32) 64
  /-- SAMP[0..63], `SAMP[8*y + x]` (R49). -/
  samp : Vector Byte 64
  /-- P, the sample precision (R50). -/
  prec : Byte
  /-- NF (R50), as wide as FRAMEINFO shows it (R34). -/
  nf : BitVec 2
  /-- X, the frame width (R50). -/
  fx : BitVec 16
  /-- Y, the frame height (R50). -/
  fy : BitVec 16
  /-- CSET, H, V, TQ of each slot (R50). -/
  comp : Tri CompCfg
  /-- HMAX (R51), as wide as FRAMEINFO shows it (R34). -/
  hmax : BitVec 4
  /-- VMAX (R51), as wide as FRAMEINFO shows it (R34). -/
  vmax : BitVec 4
  /-- MCUX (R51). -/
  mcux : Nat
  /-- MCUY (R51). -/
  mcuy : Nat
  /-- PBW, PBH, XC, YC of each slot (R51). -/
  geom : Tri CompGeom
  /-- The component planes and their SVALID bits (R52). -/
  planes : Tri Plane
  /-- IN, the compressed buffer: a parameter of the step (R54) carried here; only `HostOp.supplyIn` changes it (log 7). -/
  inMem : Memory
  /-- OUT, the destination buffer: host memory the block only writes (R54, R83; log 7). -/
  outMem : Memory
  /-- OUT_LEN, the OPEN parameter (R6, R83): no command changes it, only `HostOp.supplyOut` (log 8). -/
  outLen : Nat
  /-- The model's own: the host accesses still to come, oldest first, in the total order of R94 (log 1). -/
  hostq : List HostOp
  /-- The model's own: the word the last host register read returned (R34, R91; log 2). -/
  rdata : Word
  /-- The model's own: how many times a free value has been drawn (R321, I8, I24; log 3). -/
  freeIx : Nat
  /-- The model's own: a session is in progress, so that IN must hold the same bytes (R82): from a SET_INPUT that ends OK to the
  FINISH, the ABORT, the SRESET or the hardware reset that ends the session (log 10). -/
  inSession : Bool
  deriving DecidableEq, Repr

/-- A table behind a cleared HVALID; its contents are "unspecified and unobservable" (R55; log 5). -/
def HuffTable.reset : HuffTable where
  hvalid := false
  bits := Vector.replicate 16 0
  huffval := []
  first := Vector.replicate 16 0
  off := Vector.replicate 16 0

/-- A table behind a cleared QVALID; its contents are "unspecified and unobservable" (R55; log 5). -/
def QuantTable.reset : QuantTable where
  qvalid := false
  q := Vector.replicate 64 0

/-- CSET, H, V and TQ at reset (R55). -/
def CompCfg.reset : CompCfg := ⟨false, 0, 0, 0⟩

/-- The geometry at reset, which R55 leaves unspecified (log 4). -/
def CompGeom.reset : CompGeom := ⟨0, 0, 0, 0⟩

/-- A scan slot at reset (R55). -/
def ScanSlot.reset : ScanSlot := ⟨false, 0, 0, 0⟩

/-- The same value in every component slot. -/
def Tri.all {α : Type} (a : α) : Tri α := ⟨a, a, a⟩

/-- The same value at every table id or scan slot. -/
def Quad.all {α : Type} (a : α) : Quad α := ⟨a, a, a, a⟩

/-- The machine right after hardware reset (R55, R350): every element 0, STATE = EMPTY, no valid table or sample. Nothing
is listed in IN or OUT and the host has made no access (logs 1, 7). -/
def State.reset : State where
  arg := 0
  res := 0
  result := .ok
  sess := .empty
  scanact := false
  frameset := false
  corder := .rgb
  err := 0
  pverr := 0
  width := 0
  height := 0
  row := 0
  inLen := 0
  htDc := .all .reset
  htAc := .all .reset
  qt := .all .reset
  seg := 0
  bitpos := 0
  ns := 0
  sc := .all .reset
  mcucnt := 0
  mcutot := 0
  marker := 0
  ri := 0
  rstnext := 0
  pred := .all 0
  coef := Vector.replicate 64 0
  dq := Vector.replicate 64 0
  samp := Vector.replicate 64 0
  prec := 0
  nf := 0
  fx := 0
  fy := 0
  comp := .all .reset
  hmax := 0
  vmax := 0
  mcux := 0
  mcuy := 0
  geom := .all .reset
  planes := .all []
  inMem := []
  outMem := []
  outLen := Config.outLen
  hostq := []
  rdata := 0
  freeIx := 0
  inSession := false

end Sys2Proof.Machine
end

