-- ==== Sys2Proof/Machine/Arith.lean ====
section
/-! DEFINITION. The arithmetic of R8 and the indexing of R9: saturation, the floor shift, rounding up, and the selection of one component slot, table id or scan slot. -/

namespace Sys2Proof.Machine

/-- `clamp8(v)` (R8, R263): saturating, never wrapping. -/
def clamp8 (v : Int) : Byte :=
  if v < 0 then 0 else if 255 < v then 255 else BitVec.ofInt 8 v

/-- `a >> n` on a signed integer: the floor of `a / 2^n` (R8). -/
def asr (a : Int) (n : Nat) : Int := a / 2 ^ n

/-- `ceil_div(a, b)` (R8), used with b > 0. -/
def ceilDiv (a b : Nat) : Nat := (a + b - 1) / b

/-- The value of component slot c. Rules produce c < 3 only; any other c reads slot 2 (log 13). -/
def Tri.get {α : Type} (t : Tri α) : Nat → α
  | 0 => t.c0
  | 1 => t.c1
  | _ => t.c2

/-- `x[c] <- a` for component slot c (R9). -/
def Tri.set {α : Type} (t : Tri α) (c : Nat) (a : α) : Tri α :=
  match c with
  | 0 => { t with c0 := a }
  | 1 => { t with c1 := a }
  | _ => { t with c2 := a }

/-- The value of table id or scan slot i. Rules produce i < 4 only; any other i reads slot 3 (log 13). -/
def Quad.get {α : Type} (t : Quad α) : Nat → α
  | 0 => t.i0
  | 1 => t.i1
  | 2 => t.i2
  | _ => t.i3

/-- `x[i] <- a` for table id or scan slot i (R9). -/
def Quad.set {α : Type} (t : Quad α) (i : Nat) (a : α) : Quad α :=
  match i with
  | 0 => { t with i0 := a }
  | 1 => { t with i1 := a }
  | 2 => { t with i2 := a }
  | _ => { t with i3 := a }

/-- One element of a 64-entry block buffer or table. Rules produce i < 64 only; any other i reads 0 (log 13). -/
def at64 {w : Nat} (v : Vector (BitVec w) 64) (i : Nat) : BitVec w := v.getD i 0

end Sys2Proof.Machine
end

