-- ==== Sys2Proof/Machine/Memory.lean ====
section
/-! DEFINITION. The byte spaces IN and OUT and the component planes (20_memory.md): lists of (key, byte) pairs with strictly
rising keys. In IN and OUT an unlisted byte reads `Memory.unlisted`; in a plane an unlisted sample has SVALID = 0. -/

namespace Sys2Proof.Machine

/-- The first byte listed at key a. -/
def findCell : List (Nat × Byte) → Nat → Option Byte
  | [], _ => none
  | (k, b) :: m, a => if k = a then some b else findCell m a

/-- List byte b at key a, in rising order. -/
def insertCell (a : Nat) (b : Byte) : List (Nat × Byte) → List (Nat × Byte)
  | [] => [(a, b)]
  | (k, c) :: m =>
    if a < k then (a, b) :: (k, c) :: m
    else if k = a then (a, b) :: m
    else (k, c) :: insertCell a b m

/-- List nothing at key a. -/
def eraseCell (a : Nat) (m : List (Nat × Byte)) : List (Nat × Byte) := m.filter (fun c => c.1 != a)

/-- The keys rise strictly. -/
abbrev risingKeys (m : List (Nat × Byte)) : Prop := m.Pairwise (fun c d => c.1 < d.1)

/-- What an unlisted byte of IN or OUT reads as. DESIGN CHOICE: the spec gives no reset contents of host memory (log 7). -/
def Memory.unlisted : Byte := 0

/-- The canonical form: strictly rising addresses, no entry equal to what an unlisted address reads as. -/
abbrev Memory.wf (m : Memory) : Prop := risingKeys m ∧ ∀ c ∈ m, c.2 ≠ Memory.unlisted

/-- Read one byte (R81). -/
def Memory.read (m : Memory) (a : Nat) : Byte := (findCell m a).getD Memory.unlisted

/-- Write one byte, keeping the canonical form (R83). -/
def Memory.write (m : Memory) (a : Nat) (b : Byte) : Memory :=
  if b = Memory.unlisted then eraseCell a m else insertCell a b m

/-- Write consecutive bytes from address a. -/
def Memory.writeBytes (m : Memory) (a : Nat) : List Byte → Memory
  | [] => m
  | b :: bs => Memory.writeBytes (Memory.write m a b) (a + 1) bs

/-- A buffer that holds the given bytes from offset 0 and nothing after them. -/
def Memory.ofBytes (bs : List Byte) : Memory := Memory.writeBytes [] 0 bs

/-- The key of the sample at column x, row y (R84): row-major. A column number is at most 8 * 65535 + 7 (R272), so
different positions have different keys (log 6). -/
def sampleKey (x y : Nat) : Nat := y * 524288 + x

/-- SVALID(c, x, y) with the sample's value: `some v` when the bit is 1 (R52, R84). -/
def Plane.sample? (p : Plane) (x y : Nat) : Option Byte := findCell p (sampleKey x y)

/-- `Plane(c, x, y)` (R84). Every rule reads it only when SVALID is 1 (R292); an invalid sample reads 0 (log 6). -/
def Plane.sample (p : Plane) (x y : Nat) : Byte := (Plane.sample? p x y).getD 0

/-- `Plane(c, x, y) <- v`, which also sets SVALID (R84). -/
def Plane.put (p : Plane) (x y : Nat) (v : Byte) : Plane := insertCell (sampleKey x y) v p

/-- `Plane(c, 8*bx + x, 8*by + y) <- SAMP[8*y + x] for x, y in 0 .. 7` (R272, R234). -/
def Plane.putBlock (p : Plane) (bx by' : Nat) (samp : Vector Byte 64) : Plane :=
  (List.range 64).foldl (fun p i => Plane.put p (8 * bx + i % 8) (8 * by' + i / 8) (at64 samp i)) p

/-- Any set of samples in the canonical form of a plane: what R321 leaves of one. -/
def Plane.ofCells (cells : List (Nat × Byte)) : Plane :=
  cells.foldl (fun p c => insertCell c.1 c.2 p) []

end Sys2Proof.Machine
end

