-- ==== Sys2Proof/Machine/Flags.lean ====
section
/-! DEFINITION. The status words: STATUS (R35), ERR (R36), PVERR (R37) with the cause codes of R316 and R317, and the register
map a host read sees (R34). -/

namespace Sys2Proof.Machine

/-- ERR.ECLASS (R36). -/
def ErrClass.code : ErrClass → BitVec 2
  | .malformed => 1
  | .unsupported => 2
  | .decodeFault => 3

/-- The class of each cause (R316). -/
def ErrCause.errClass : ErrCause → ErrClass
  | .truncTable | .badTableClass | .badTableId | .badQtPrecision | .htCount | .htCodespace | .htDcSymbol => .malformed
  | .badDimension | .badNf | .badSampling | .qtUndefined | .htUndefined | .badNs | .scanOrder | .mcuTooBig => .malformed
  | .precision | .components | .dnlHeight => .unsupported
  | .exhaustedMarker | .exhaustedEof | .badCode | .coefOverflow | .rstTrailing | .rstMissing | .rstMismatch => .decodeFault
  | .endTrailing | .endNoMarker | .endUnexpectedRst | .noEoi => .decodeFault

/-- ERR.ECAUSE (R316). -/
def ErrCause.code : ErrCause → BitVec 8
  | .truncTable => 0x10
  | .badTableClass => 0x11
  | .badTableId => 0x12
  | .badQtPrecision => 0x13
  | .htCount => 0x14
  | .htCodespace => 0x15
  | .htDcSymbol => 0x16
  | .badDimension => 0x17
  | .badNf => 0x18
  | .badSampling => 0x19
  | .qtUndefined => 0x1A
  | .htUndefined => 0x1B
  | .badNs => 0x1C
  | .scanOrder => 0x1D
  | .mcuTooBig => 0x1E
  | .precision => 0x20
  | .components => 0x21
  | .dnlHeight => 0x22
  | .exhaustedMarker => 0x30
  | .exhaustedEof => 0x31
  | .badCode => 0x32
  | .coefOverflow => 0x33
  | .rstTrailing => 0x34
  | .rstMissing => 0x35
  | .rstMismatch => 0x36
  | .endTrailing => 0x37
  | .endNoMarker => 0x38
  | .endUnexpectedRst => 0x39
  | .noEoi => 0x3A

/-- PVERR.PVCAUSE (R317). -/
def PvCause.code : PvCause → BitVec 8
  | .illegalOpcode => 0x01
  | .reservedBits => 0x02
  | .badField => 0x03
  | .wrongState => 0x04
  | .noFrame => 0x05
  | .compUnset => 0x06
  | .badComp => 0x07
  | .badSlot => 0x08
  | .slotUnset => 0x09
  | .scanDone => 0x0A
  | .scanIncomplete => 0x0B
  | .rowLimit => 0x0C
  | .outRange => 0x0D
  | .notReady => 0x0E
  | .blockRange => 0x0F
  | .tableUndefined => 0x10
  | .rowsPending => 0x11
  | .scanActive => 0x12
  | .noScan => 0x13

/-- ERR (R36): EOP at [31:26], ECAUSE at [15:8], ECLASS at [1:0], the rest 0. -/
def errWord (op : BitVec 6) (c : ErrCause) : Word := op ++ 0#10 ++ c.code ++ 0#6 ++ c.errClass.code

/-- PVERR (R37): PVOP at [31:26], PVCAUSE at [7:0], the rest 0. -/
def pverrWord (op : BitVec 6) (c : PvCause) : Word := op ++ 0#18 ++ c.code

/-- STATUS.RESULT (R35). -/
def Result.code : Result → BitVec 2
  | .ok => 0
  | .error => 1
  | .precond => 2

/-- STATUS.STATE (R35). -/
def Session.code : Session → BitVec 3
  | .empty => 0
  | .started => 1
  | .finished => 2
  | .failed => 3
  | .aborted => 4

/-- STATUS.CORDER (R35). -/
def ChannelOrder.code : ChannelOrder → BitVec 2
  | .rgb => 0
  | .bgr => 1

/-- STATUS (R35): CORDER at [17:16], FRAMESET at [9], SCANACT at [8], STATE at [6:4], RESULT at [1:0], the rest 0. -/
def State.status (s : State) : Word :=
  0#14 ++ s.corder.code ++ 0#6 ++ BitVec.ofBool s.frameset ++ BitVec.ofBool s.scanact ++ 0#1 ++ s.sess.code ++ 0#2 ++
    s.result.code

/-- DBYTE (R34): BITPOS div 8. -/
def State.dbyte (s : State) : Word := BitVec.ofNat 32 (s.bitpos.toNat / 8)

/-- DBIT (R34): BITPOS mod 8. -/
def State.dbit (s : State) : Word := BitVec.ofNat 32 (s.bitpos.toNat % 8)

/-- RSTCFG (R34): RSTNEXT at [18:16], RI at [15:0], the rest 0. -/
def State.rstcfg (s : State) : Word := 0#13 ++ s.rstnext ++ s.ri

/-- FRAMEINFO (R34): NS at [18:16], VMAX at [15:12], HMAX at [11:8], NF at [1:0], the rest 0. -/
def State.frameinfo (s : State) : Word := 0#13 ++ s.ns ++ s.vmax ++ s.hmax ++ 0#6 ++ s.nf

/-- What a host read of the register at byte offset `off` returns (R34): CMD and the reserved offsets read 0. -/
def State.readReg (s : State) (off : BitVec 8) : Word :=
  match off.toNat with
  | 0x04 => s.arg
  | 0x08 => s.res
  | 0x0C => s.status
  | 0x10 => s.err
  | 0x14 => s.pverr
  | 0x18 => s.width.setWidth 32
  | 0x1C => s.height.setWidth 32
  | 0x20 => s.row.setWidth 32
  | 0x24 => s.inLen
  | 0x28 => s.seg
  | 0x2C => s.dbyte
  | 0x30 => s.dbit
  | 0x34 => s.mcucnt
  | 0x38 => s.mcutot
  | 0x3C => s.marker.setWidth 32
  | 0x40 => s.rstcfg
  | 0x44 => s.frameinfo
  | _ => 0

end Sys2Proof.Machine
end

