-- ==== Sys2Proof/Machine/Ops.lean ====
section
/-! DEFINITION. How a command ends (R313 to R315), the two kinds of error entry as one operation each (R321, R322), the state
check of R320, reset (R55, R140, R350), and the reads of IN (R81). -/

namespace Sys2Proof.Machine

/-- What a command answers: a next state, always (R356). -/
abbrev Answer := Host.Outcome State Fault Refusal

/-- `if not p: raise e` in a command's pseudocode. -/
def require (p : Prop) [Decidable p] (e : Raise) : Except Raise Unit := if p then .ok () else .error e

/-- Taking a DecodeError raised by a command with opcode `op` (R321): ERR, RESULT, STATE and SCANACT get their values; the
elements the rule calls unspecified get free values (log 3); every other element keeps the value it had before the command. -/
def State.decodeError (op : BitVec 6) (cause : ErrCause) (s : State) : State :=
  let n := s.freeIx
  { s with
    err := errWord op cause
    result := .error
    sess := .failed
    scanact := false
    res := Config.freeRes n
    seg := Config.freeSeg n
    bitpos := Config.freeBitpos n
    mcucnt := Config.freeMcucnt n
    rstnext := Config.freeRstnext n
    pred := ⟨Config.freePred n 0, Config.freePred n 1, Config.freePred n 2⟩
    coef := Vector.ofFn fun i => Config.freeCoef n i
    dq := Vector.ofFn fun i => Config.freeDq n i
    samp := Vector.ofFn fun i => Config.freeSamp n i
    planes := ⟨Plane.ofCells (Config.freePlane n 0), Plane.ofCells (Config.freePlane n 1),
      Plane.ofCells (Config.freePlane n 2)⟩
    freeIx := n + 1 }

/-- A precondition refusal of a command word with op field `op` (R322): PVERR and RESULT, nothing else. -/
def State.refuse (op : BitVec 6) (cause : PvCause) (s : State) : State :=
  { s with pverr := pverrWord op cause, result := .precond }

/-- How a command with opcode `op`, issued in state s, ends (R313): what it did with RESULT = OK, or R321 or R322 on the
state before it. -/
def complete (op : BitVec 6) (s : State) : Except Raise State → Answer
  | .ok t => .next { t with result := .ok }
  | .error (.decodeError c) => .next (s.decodeError op c)
  | .error (.precond c) => .next (s.refuse op c)

/-- The "Allowed states" lines of the command rules (R320). -/
inductive Allowed where
  /-- EMPTY. -/
  | emptyOnly
  /-- EMPTY, or STARTED with no scan active. -/
  | emptyOrNoScan
  /-- STARTED with no scan active. -/
  | startedNoScan
  /-- STARTED with a scan active. -/
  | startedScan
  /-- STARTED. -/
  | started
  /-- Every state but FAILED. -/
  | notFailed
  deriving DecidableEq, Repr

/-- The state check (R318 step 4, R320): why the command is refused in this STATE and SCANACT, if it is. -/
def stateCause (a : Allowed) (sess : Session) (scanact : Bool) : Option PvCause :=
  match a, sess with
  | .emptyOnly, .empty => none
  | .emptyOrNoScan, .empty => none
  | .emptyOrNoScan, .started => if scanact then some .scanActive else none
  | .startedNoScan, .started => if scanact then some .scanActive else none
  | .startedScan, .started => if scanact then none else some .noScan
  | .started, .started => none
  | .notFailed, .failed => some .wrongState
  | .notFailed, _ => none
  | _, _ => some .wrongState

/-- The state check as the first line of a command's pseudocode. -/
def stateCheck (a : Allowed) (s : State) : Except Raise Unit :=
  match stateCause a s.sess s.scanact with
  | none => .ok ()
  | some c => .error (.precond c)

/-- `SVALID(c, x, y) <- 0 for all c, x, y` (R142 to R144, R333). -/
def State.clearPlanes (s : State) : State := { s with planes := .all [] }

/-- Every element of the block at its reset value (R55), the host's side (IN, OUT, OUT_LEN, pending accesses, the last word
read) and the counter of free values as they are; no session is in progress (R82). -/
def State.resetBlock (s : State) : State :=
  { State.reset with
    inMem := s.inMem
    outMem := s.outMem
    outLen := s.outLen
    hostq := s.hostq
    rdata := s.rdata
    freeIx := s.freeIx }

/-- `InByte(a)` (R81). Every rule that reads IN tests `a < IN_LEN` first. -/
def State.inByte (s : State) (a : Nat) : Byte := Memory.read s.inMem a

end Sys2Proof.Machine
end

