-- ==== Sys2Proof/Machine/Operands.lean ====
section
/-! DEFINITION. Operands: the slices of ARG (R113), the tables, slots and components a field names, and the derived geometry (R51, R226, R228). -/

namespace Sys2Proof.Machine

/-- `ARG[31:0]` as an offset, a length or a count (R113). -/
def State.argOffset (s : State) : Nat := s.arg.toNat

/-- `ARG[15:0]` (R113): X, RI or the block column. -/
def State.argLow (s : State) : BitVec 16 := s.arg.extractLsb' 0 16

/-- `ARG[31:16]` (R113): Y or the block row. -/
def State.argHigh (s : State) : BitVec 16 := s.arg.extractLsb' 16 16

/-- Byte i of ARG (R113): CC_PIX takes Y, Cb, Cr from bytes 0, 1, 2. -/
def State.argByte (s : State) (i : Nat) : Byte := s.arg.extractLsb' (8 * i) 8

/-- `HT[tc][th]` (R42): class 0 is DC, class 1 is AC. -/
def State.ht (s : State) (tc : BitVec 1) (th : BitVec 2) : HuffTable :=
  if tc = 0 then s.htDc.get th.toNat else s.htAc.get th.toNat

/-- `HT[tc][th] <- t` (R42). -/
def State.setHt (s : State) (tc : BitVec 1) (th : BitVec 2) (t : HuffTable) : State :=
  if tc = 0 then { s with htDc := s.htDc.set th.toNat t } else { s with htAc := s.htAc.set th.toNat t }

/-- `QT[t]` (R43). -/
def State.quant (s : State) (t : BitVec 2) : QuantTable := s.qt.get t.toNat

/-- `SC[s]` (R45). -/
def State.slot (s : State) (i : Nat) : ScanSlot := s.sc.get i

/-- The component slot of scan slot i, `SC[i].SCC` (R45). -/
def State.slotComp (s : State) (i : Nat) : Nat := (s.slot i).scc.toNat

/-- CSET, H, V and TQ of component slot c (R50). -/
def State.cfg (s : State) (c : Nat) : CompCfg := s.comp.get c

/-- `H[c]` (R50). -/
def State.hOf (s : State) (c : Nat) : Nat := (s.cfg c).h.toNat

/-- `V[c]` (R50). -/
def State.vOf (s : State) (c : Nat) : Nat := (s.cfg c).v.toNat

/-- The component slots of the frame, c < NF (R50). -/
def State.frameComps (s : State) : List Nat := List.range s.nf.toNat

/-- The largest of a list of sampling factors (R51). -/
def maxOf (l : List Nat) : Nat := l.foldl max 0

/-- PBW, PBH, XC, YC of component slot c for given HMAX, VMAX, MCUX, MCUY (R51). -/
def State.geomOf (s : State) (hmax vmax mcux mcuy c : Nat) : CompGeom where
  pbw := mcux * s.hOf c
  pbh := mcuy * s.vOf c
  xc := ceilDiv (s.fx.toNat * s.hOf c) hmax
  yc := ceilDiv (s.fy.toNat * s.vOf c) vmax

/-- R51: the derived values, for the slots c < NF; a slot the frame does not have keeps what it held (log 11). -/
def State.withGeometry (s : State) : State :=
  let hmax := maxOf (s.frameComps.map s.hOf)
  let vmax := maxOf (s.frameComps.map s.vOf)
  let mcux := ceilDiv s.fx.toNat (8 * hmax)
  let mcuy := ceilDiv s.fy.toNat (8 * vmax)
  { s with
    hmax := BitVec.ofNat 4 hmax
    vmax := BitVec.ofNat 4 vmax
    mcux := mcux
    mcuy := mcuy
    geom := s.frameComps.foldl (fun g c => g.set c (s.geomOf hmax vmax mcux mcuy c)) s.geom }

/-- `BW = ceil_div(XC[c], 8)` of R226. -/
def State.blocksWide (s : State) (c : Nat) : Nat := ceilDiv (s.geom.get c).xc 8

/-- `BH = ceil_div(YC[c], 8)` of R226. -/
def State.blocksHigh (s : State) (c : Nat) : Nat := ceilDiv (s.geom.get c).yc 8

/-- `ScanMCUs()` for a scan of ns slots (R228). -/
def State.scanMcus (s : State) (ns : Nat) : Nat :=
  if 1 < ns then s.mcux * s.mcuy else s.blocksWide (s.slotComp 0) * s.blocksHigh (s.slotComp 0)

end Sys2Proof.Machine
end

