-- ==== Sys2Proof/Machine/BitStream.lean ====
section
/-! DEFINITION. The bit stream of 43_entropy.md section 1: the entropy-coded segment (R210), its data bits (R211), exhaustion
(R212), raw bit fields (R213), alignment (R214), and the sign extension of a magnitude field (R216). -/

namespace Sys2Proof.Machine

/-- How a segment ends (R210). -/
inductive Stop where
  /-- END: at the end of IN. -/
  | endOfInput
  /-- MARKER: the code byte, the offset of the first 0xFF, the offset after the code byte. -/
  | marker (code : Byte) (atOff next : Nat)
  deriving DecidableEq, Repr

/-- `Segment(seg) = (D, stop)` (R210). -/
structure Segment where
  data : List Byte
  stop : Stop
  deriving DecidableEq, Repr

/-- A data byte in front of a segment. -/
def Segment.cons (b : Byte) (g : Segment) : Segment := { g with data := b :: g.data }

/-- `while q < IN_LEN and InByte(q) = 0xFF: q <- q + 1` (R210), at most `fuel` times. -/
def skipFill (rd : Nat → Byte) (len : Nat) : Nat → Nat → Nat
  | 0, q => q
  | fuel + 1, q => if q < len ∧ rd q = 0xFF then skipFill rd len fuel (q + 1) else q

/-- The loop of R210 from position p, for a buffer of `len` bytes read by `rd`. Each pass moves p up, so `len` passes reach
the end of the buffer. -/
def scanSegment (rd : Nat → Byte) (len : Nat) : Nat → Nat → Segment
  | 0, _ => ⟨[], .endOfInput⟩
  | fuel + 1, p =>
    if len ≤ p then ⟨[], .endOfInput⟩
    else if rd p ≠ 0xFF then (scanSegment rd len fuel (p + 1)).cons (rd p)
    else if len ≤ p + 1 then ⟨[], .endOfInput⟩
    else if rd (p + 1) = 0x00 then (scanSegment rd len fuel (p + 2)).cons 0xFF
    else
      let q := skipFill rd len len (p + 1)
      if len ≤ q then ⟨[], .endOfInput⟩ else ⟨[], .marker (rd q) p (q + 1)⟩

/-- The current segment, `Segment(SEG)` (R210). -/
def State.segment (s : State) : Segment := scanSegment s.inByte s.inLen.toNat s.inLen.toNat s.seg.toNat

/-- The number of data bits of a segment (R211). -/
def Segment.bits (g : Segment) : Nat := 8 * g.data.length

/-- `PeekBit(i)` (R211): bit 7 of each data byte comes first (R85). -/
def Segment.peekBit (g : Segment) (i : Nat) : Nat := (g.data.getD (i / 8) 0).toNat / 2 ^ (7 - i % 8) % 2

/-- `Need(i)` (R212). -/
def Segment.need (g : Segment) (i : Nat) : Except Raise Unit :=
  if i < g.bits then .ok ()
  else match g.stop with
    | .endOfInput => .error (.decodeError .exhaustedEof)
    | .marker _ _ _ => .error (.decodeError .exhaustedMarker)

/-- The loop of `NextBits` (R213): n more bits from position pos onto the value v. -/
def Segment.takeBits (g : Segment) : Nat → Nat → Nat → Except Raise Nat
  | 0, _, v => .ok v
  | n + 1, pos, v => do
    g.need pos
    g.takeBits n (pos + 1) (2 * v + g.peekBit pos)

/-- `NextBits(n)` at position pos (R213); the caller moves BITPOS on by n. -/
def Segment.nextBits (g : Segment) (n pos : Nat) : Except Raise Nat := g.takeBits n pos 0

/-- The position `Align()` leaves (R214): the next whole data byte. -/
def alignUp (pos : Nat) : Nat := 8 * ceilDiv pos 8

/-- `Extend(v, t)` (R216). -/
def extend (v t : Nat) : Int :=
  if t = 0 then 0 else if v < 2 ^ (t - 1) then (v : Int) - 2 ^ t + 1 else v

/-- `RecvExt(t)` at position pos (R216). -/
def Segment.recvExt (g : Segment) (t pos : Nat) : Except Raise Int := do
  let v ← g.nextBits t pos
  .ok (extend v t)

/-- BITPOS moved to position pos (R44). -/
def State.atBit (s : State) (pos : Nat) : State := { s with bitpos := BitVec.ofNat 35 pos }

end Sys2Proof.Machine
end

