-- ==== Sys2Proof/Machine/Huffman.lean ====
section
/-! DEFINITION. Canonical Huffman tables: their construction (R176) and the extraction of one symbol (R215). -/

namespace Sys2Proof.Machine

/-- `L[l]` or `BITS[l]` for l = 1..16. -/
def countAt (bits : Vector Byte 16) (l : Nat) : Nat := (bits.getD (l - 1) 0).toNat

/-- `C` of `BuildHuff` after length l (R176): one more than the last code of length l. -/
def codeEnd (bits : Vector Byte 16) : Nat → Nat
  | 0 => 0
  | l + 1 => 2 * codeEnd bits l + countAt bits (l + 1)

/-- `O` of `BuildHuff` after length l (R176): how many symbols have codes of length at most l. -/
def symEnd (bits : Vector Byte 16) : Nat → Nat
  | 0 => 0
  | l + 1 => symEnd bits l + countAt bits (l + 1)

/-- `FIRST[l] <- 2 * C` (R176). -/
def firstCode (bits : Vector Byte 16) (l : Nat) : Nat := 2 * codeEnd bits (l - 1)

/-- `OFF[l] <- O` (R176). -/
def symOffset (bits : Vector Byte 16) (l : Nat) : Nat := symEnd bits (l - 1)

/-- No length fails the test `C >= 2^l` of `BuildHuff` (R176). -/
def codesFit (bits : Vector Byte 16) : Bool :=
  (List.range 16).all fun i => decide (codeEnd bits (i + 1) < 2 ^ (i + 1))

/-- `BuildHuff(L)` with the table it builds from counts L and symbols S (R171, R176). -/
def buildHuff (bits : Vector Byte 16) (symbols : List Byte) : Except Raise HuffTable :=
  if codesFit bits then
    .ok { hvalid := true
          bits := bits
          huffval := symbols
          first := Vector.ofFn fun i => firstCode bits (i + 1)
          off := Vector.ofFn fun i => symOffset bits (i + 1) }
  else .error (.decodeError .htCodespace)

/-- `BITS[l]` (R42). -/
def HuffTable.bitsAt (t : HuffTable) (l : Nat) : Nat := countAt t.bits l

/-- `FIRST[l]` (R42). -/
def HuffTable.firstAt (t : HuffTable) (l : Nat) : Nat := t.first.getD (l - 1) 0

/-- `OFF[l]` (R42). -/
def HuffTable.offAt (t : HuffTable) (l : Nat) : Nat := t.off.getD (l - 1) 0

/-- `HUFFVAL[j]` (R42). -/
def HuffTable.symAt (t : HuffTable) (j : Nat) : Byte := t.huffval.getD j 0

/-- The loop of `DecodeSym` (R215): k lengths left, from length l, at position pos, with the code bits v read so far. It gives
the symbol and the position after its code. -/
def Segment.symSearch (g : Segment) (t : HuffTable) : Nat → Nat → Nat → Nat → Except Raise (Byte × Nat)
  | 0, _, _, _ => .error (.decodeError .badCode)
  | k + 1, l, pos, v => do
    g.need pos
    let w := 2 * v + g.peekBit pos
    if 0 < t.bitsAt l ∧ t.firstAt l ≤ w ∧ w < t.firstAt l + t.bitsAt l then
      .ok (t.symAt (t.offAt l + w - t.firstAt l), pos + 1)
    else g.symSearch t k (l + 1) (pos + 1) w

/-- `DecodeSym(tc, th)` with table t at position pos (R215). -/
def Segment.decodeSym (g : Segment) (t : HuffTable) (pos : Nat) : Except Raise (Byte × Nat) := g.symSearch t 16 1 pos 0

end Sys2Proof.Machine
end

