-- ==== Sys2Proof/Machine/Blocks.lean ====
section
/-! DEFINITION. Coefficient blocks (R217 to R221), the restart (R222, R229), and the MCU structure (R225, R226). -/

namespace Sys2Proof.Machine

/-- `ZZ[0..63]` (R219): the natural index of the k-th coded coefficient. -/
def zigzag : List Nat :=
  [0, 1, 8, 16, 9, 2, 3, 10, 17, 24, 32, 25, 18, 11, 4, 5] ++
  [12, 19, 26, 33, 40, 48, 41, 34, 27, 20, 13, 6, 7, 14, 21, 28] ++
  [35, 42, 49, 56, 57, 50, 43, 36, 29, 22, 15, 23, 30, 37, 44, 51] ++
  [58, 59, 52, 45, 38, 31, 39, 46, 53, 60, 61, 54, 47, 55, 62, 63]

/-- `ZZ[k]` (R219). -/
def zz (k : Nat) : Nat := zigzag.getD k 0

/-- `X[ZZ[k]] <- e(k) for k in 0 .. 63` (R177, R221): every entry is written. -/
def scatterZigzag {w : Nat} (e : Nat → BitVec w) : Vector (BitVec w) 64 :=
  (List.range 64).foldl (fun v k => v.setIfInBounds (zz k) (e k)) (Vector.replicate 64 0)

/-- What decoding one block leaves: ZZV[0..63], the position after it, and KEND (R220, R221). -/
structure BlockRead where
  zzv : Vector (BitVec 16) 64
  pos : Nat
  kend : Nat
  deriving DecidableEq, Repr

/-- The AC loop of R220, for at most `fuel` symbols (each raises k or ends the loop, R236). -/
def Segment.acLoop (g : Segment) (t : HuffTable) : Nat → BlockRead → Except Raise BlockRead
  | 0, r => .ok r
  | fuel + 1, r =>
    if 64 ≤ r.kend then .ok r
    else do
      let (rs, pos) ← g.decodeSym t r.pos
      let run := rs.toNat / 16
      let size := rs.toNat % 16
      if size = 0 then
        if run = 15 then
          if 64 < r.kend + 16 then .error (.decodeError .coefOverflow)
          else g.acLoop t fuel { r with pos := pos, kend := r.kend + 16 }
        else .ok { r with pos := pos }
      else
        let k := r.kend + run
        if 63 < k then .error (.decodeError .coefOverflow)
        else do
          let v ← g.recvExt size pos
          g.acLoop t fuel ⟨r.zzv.setIfInBounds k (BitVec.ofInt 16 v), pos + size, k + 1⟩

/-- The DC part of a block (R218): PRED[c] + diff modulo 2^16 (R224), and the position after it. -/
def Segment.dcRead (g : Segment) (t : HuffTable) (pred : BitVec 16) (pos : Nat) : Except Raise (BitVec 16 × Nat) := do
  let (sym, p) ← g.decodeSym t pos
  let diff ← g.recvExt sym.toNat p
  .ok (BitVec.ofInt 16 (pred.toInt + diff), p + sym.toNat)

/-- The DC and AC decoding of one block (R218, R220, R221). -/
def Segment.blockRead (g : Segment) (dc ac : HuffTable) (pred : BitVec 16) (pos : Nat) : Except Raise BlockRead := do
  let (p, pos1) ← g.dcRead dc pred pos
  g.acLoop ac 64 ⟨(Vector.replicate 64 0).setIfInBounds 0 p, pos1, 1⟩

/-- `DecodeBlock(s)` (R221) with KEND: COEF, PRED of the slot's component and BITPOS are written. -/
def State.decodeBlock (i : Nat) (s : State) : Except Raise (State × Nat) := do
  let slot := s.slot i
  let r ← s.segment.blockRead (s.ht 0 slot.td) (s.ht 1 slot.ta) (s.pred.get slot.scc.toNat) s.bitpos.toNat
  .ok ({ (s.atBit r.pos) with
          coef := scatterZigzag (at64 r.zzv)
          pred := s.pred.set slot.scc.toNat (at64 r.zzv 0) }, r.kend)

/-- `Restart()` (R222). -/
def State.restart (s : State) : Except Raise State := do
  let g := s.segment
  require (¬ alignUp s.bitpos.toNat < g.bits) (.decodeError .rstTrailing)
  match g.stop with
  | .endOfInput => .error (.decodeError .rstMissing)
  | .marker code _ next => do
    require (code.toNat = 0xD0 + s.rstnext.toNat) (.decodeError .rstMismatch)
    .ok { s with seg := BitVec.ofNat 32 next, bitpos := 0, pred := .all 0, rstnext := s.rstnext + 1 }

/-- A restart is due before MCU m (R229). -/
def restartDue (ri : BitVec 16) (m : Nat) : Bool := 0 < ri.toNat && 0 < m && m % ri.toNat == 0

/-- One block of an MCU: the scan slot it is decoded with, its component, its block column and row (R225). -/
structure McuBlock where
  slot : Nat
  comp : Nat
  col : Nat
  row : Nat
  deriving DecidableEq, Repr

/-- The blocks of MCU number m of an interleaved scan, in their order in the stream (R225). -/
def State.interleavedBlocks (s : State) (m : Nat) : List McuBlock :=
  let mx := m % s.mcux
  let my := m / s.mcux
  (List.range s.ns.toNat).flatMap fun i =>
    let c := s.slotComp i
    (List.range (s.vOf c)).flatMap fun j =>
      (List.range (s.hOf c)).map fun k => ⟨i, c, mx * s.hOf c + k, my * s.vOf c + j⟩

/-- The one block of MCU number m of a non-interleaved scan (R226). -/
def State.singleBlock (s : State) (m : Nat) : McuBlock :=
  let c := s.slotComp 0
  ⟨0, c, m % s.blocksWide c, m / s.blocksWide c⟩

/-- The blocks of MCU number m (R225, R226). -/
def State.mcuBlocks (s : State) (m : Nat) : List McuBlock :=
  if 1 < s.ns.toNat then s.interleavedBlocks m else [s.singleBlock m]

end Sys2Proof.Machine
end

