-- ==== Sys2Proof/Machine/Idct.lean ====
section
/-! DEFINITION. Dequantisation (R266) and the integer inverse DCT with level shift and saturation (R263, R267, R268). -/

namespace Sys2Proof.Machine

/-- `DQ[i] <- COEF[i] * Q[i]` (R266): signed 16-bit times unsigned 16-bit, exact in signed 32 bits. -/
def dequantise (coef q : Vector (BitVec 16) 64) : Vector (BitVec 32) 64 :=
  Vector.ofFn fun i => BitVec.ofInt 32 ((at64 coef i).toInt * (at64 q i).toNat)

/-- The constant table of R267, row x. -/
def idctRows : List (List Int) :=
  [[2896, 4017, 3784, 3406, 2896, 2276, 1567, 799],
   [2896, 3406, 1567, -799, -2896, -4017, -3784, -2276],
   [2896, 2276, -1567, -4017, -2896, 799, 3784, 3406],
   [2896, 799, -3784, -2276, 2896, 3406, -1567, -4017],
   [2896, -799, -3784, 2276, 2896, -3406, -1567, 4017],
   [2896, -2276, -1567, 4017, -2896, -799, 3784, -3406],
   [2896, -3406, 1567, 799, -2896, 4017, -3784, 2276],
   [2896, -4017, 3784, -3406, 2896, -2276, 1567, -799]]

/-- `K[x][u]` (R267). -/
def idctK (x u : Nat) : Int := (idctRows.getD x []).getD u 0

/-- The sum over w in 0..7 of `K[x][w] * f(w)` (R268). -/
def idctSum (x : Nat) (f : Nat → Int) : Int :=
  idctK x 0 * f 0 + idctK x 1 * f 1 + idctK x 2 * f 2 + idctK x 3 * f 3 + idctK x 4 * f 4 + idctK x 5 * f 5 +
    idctK x 6 * f 6 + idctK x 7 * f 7

/-- `r1[y][u]` of pass 1 (R268): down column u, scaled by 4. -/
def idctPass1 (dq : Vector (BitVec 32) 64) (y u : Nat) : Int :=
  asr (idctSum y (fun v => (at64 dq (8 * v + u)).toInt) + 1024) 11

/-- Every `r1[y][u]`, at index `8*y + u`. -/
def idctColumns (dq : Vector (BitVec 32) 64) : Vector Int 64 :=
  Vector.ofFn fun i => idctPass1 dq (i / 8) (i % 8)

/-- The transform's integer output t of pass 2 at row y, column x (R268). -/
def idctPass2 (r1 : Vector Int 64) (y x : Nat) : Int :=
  asr (idctSum x (fun u => r1.getD (8 * y + u) 0) + 16384) 15

/-- `IDCT_INT(DQ)` (R268), with the level shift and saturation of R263. -/
def idctInt (dq : Vector (BitVec 32) 64) : Vector Byte 64 :=
  let r1 := idctColumns dq
  Vector.ofFn fun i => clamp8 (idctPass2 r1 (i / 8) (i % 8) + 128)

/-- `IDCT_IMPL` (R6, R264): this block's is `IDCT_INT` (log 15). -/
def idctImpl (dq : Vector (BitVec 32) 64) : Vector Byte 64 := idctInt dq

/-- The dequantisation, IDCT and plane store DEC_MCU does after decoding block b (R234). -/
def State.storeBlock (b : McuBlock) (s : State) : State :=
  let dq := dequantise s.coef (s.quant (s.cfg b.comp).tq).q
  let samp := idctImpl dq
  { s with dq := dq, samp := samp, planes := s.planes.set b.comp (Plane.putBlock (s.planes.get b.comp) b.col b.row samp) }

/-- One block of an MCU from the stream to its plane (R234). -/
def State.mcuBlock (s : State) (b : McuBlock) : Except Raise State := do
  let (t, _) ← s.decodeBlock b.slot
  .ok (t.storeBlock b)

end Sys2Proof.Machine
end

