-- ==== Sys2Proof/Machine/Colour.lean ====
section
/-! DEFINITION. Colour conversion (R290), nearest upsampling (R292) and the bytes of one output row (R291). -/

namespace Sys2Proof.Machine

/-- An (R, G, B) triple or the three output bytes of a pixel. -/
structure Pixel where
  b0 : Byte
  b1 : Byte
  b2 : Byte
  deriving DecidableEq, Repr

/-- `ConvYCC(Y, Cb, Cr)` (R290). -/
def convYcc (y cb cr : Byte) : Pixel :=
  let l : Int := y.toNat
  let b : Int := cb.toNat - 128
  let r : Int := cr.toNat - 128
  ⟨clamp8 (l + asr (91881 * r + 32768) 16),
   clamp8 (l + asr (-22554 * b - 46802 * r + 32768) 16),
   clamp8 (l + asr (116130 * b + 32768) 16)⟩

/-- `ConvGray(G)` (R290). -/
def convGray (g : Byte) : Pixel := ⟨g, g, g⟩

/-- `Bytes(R, G, B)` (R290): the order CORDER chooses. -/
def orderBytes (o : ChannelOrder) (p : Pixel) : Pixel :=
  match o with
  | .rgb => p
  | .bgr => ⟨p.b2, p.b1, p.b0⟩

/-- `Sx(c, x)` (R292). -/
def State.sampleX (s : State) (c x : Nat) : Nat := x * s.hOf c / s.hmax.toNat

/-- `Sy(c, y)` (R292). -/
def State.sampleY (s : State) (c y : Nat) : Nat := y * s.vOf c / s.vmax.toNat

/-- The sample of component slot c shown at pixel (x, y) (R292). -/
def State.shown (s : State) (c x y : Nat) : Byte := Plane.sample (s.planes.get c) (s.sampleX c x) (s.sampleY c y)

/-- `Pixel(x, y)` (R292). -/
def State.pixel (s : State) (x y : Nat) : Pixel :=
  if s.nf.toNat = 1 then convGray (Plane.sample (s.planes.get 0) x y)
  else convYcc (s.shown 0 x y) (s.shown 1 x y) (s.shown 2 x y)

/-- `Ready(y)` (R292): every sample row y shows is valid. -/
def State.ready (s : State) (y : Nat) : Bool :=
  (List.range s.width.toNat).all fun x =>
    s.frameComps.all fun c => (Plane.sample? (s.planes.get c) (s.sampleX c x) (s.sampleY c y)).isSome

/-- The `3*WIDTH` bytes of image row y (R291). -/
def State.rowBytes (s : State) (y : Nat) : List Byte :=
  (List.range s.width.toNat).flatMap fun x =>
    let p := orderBytes s.corder (s.pixel x y)
    [p.b0, p.b1, p.b2]

end Sys2Proof.Machine
end

