-- ==== Sys2Proof/Machine/Output.lean ====
section
/-! DEFINITION. The output commands of 45_color.md: CC_ROW, CC_PIX. -/

namespace Sys2Proof.Machine

/-- The checks of CC_ROW, all made before the first byte is written (R293). -/
def rowChecks (s : State) : Except Raise Unit := do
  stateCheck .started s
  require (s.row.toNat < s.height.toNat) (.precond .rowLimit)
  require (s.argOffset + 3 * s.width.toNat ≤ s.outLen) (.precond .outRange)
  require (s.ready s.row.toNat = true) (.precond .notReady)

/-- CC_ROW (R293). -/
def execCcRow (s : State) : Answer :=
  complete 0x1C s do
    rowChecks s
    .ok { s with
          outMem := Memory.writeBytes s.outMem s.argOffset (s.rowBytes s.row.toNat)
          row := s.row + 1
          res := (s.row + 1).setWidth 32 }

/-- CC_PIX (R294). -/
def execCcPix (s : State) : Answer :=
  let p := orderBytes s.corder (convYcc (s.argByte 0) (s.argByte 1) (s.argByte 2))
  complete 0x1D s (.ok { s with res := 0#8 ++ p.b2 ++ p.b1 ++ p.b0 })

end Sys2Proof.Machine
end

