-- ==== Sys2Proof/Machine/Bus.lean ====
section
/-! DEFINITION. The host's side (R30, R34, R82, R88, R91, R94, R116, R350, R351): what one host access does, given how the block runs a command. -/

namespace Sys2Proof.Machine

/-- The cause a word that is no command is refused with (R116). -/
def rejectCause : DecodeReject → PvCause
  | .illegalOpcode => .illegalOpcode
  | .reservedBits => .reservedBits

/-- A write of word w to CMD: run the command, or refuse the word (R34, R116, R322). -/
def runWord (run : Instr → State → Answer) (w : Word) (s : State) : Answer :=
  match decode w with
  | .ok i => run i s
  | .error r => .next (s.refuse (opField w) (rejectCause r))

/-- A host write of word v to the register at byte offset `off` (R34): CMD runs it, ARG takes it, every other register and
reserved offset ignores it. -/
def writeReg (run : Instr → State → Answer) (off : BitVec 8) (v : Word) (s : State) : Answer :=
  match off.toNat with
  | 0x00 => runWord run v s
  | 0x04 => .next { s with arg := v }
  | _ => .next s

/-- The only register access the spec defines: one aligned 32-bit word (R88). -/
def wordAccess (off : BitVec 8) (bytes : Nat) : Bool := bytes == 4 && off.toNat % 4 == 0

/-- Hardware reset between commands (R350, R351): R55's values, ARG included; the host's side is not the block's to reset. -/
def State.hardwareReset (s : State) : State := s.resetBlock

/-- The bytes a hardware reset leaves of the row that an accepted CC_ROW was writing: any values
(93_implementation_defined.md I24; log 14). -/
def tornRow (n count : Nat) : List Byte := (List.range count).map (Config.freeRowByte n)

/-- A hardware reset that cuts the CMD write of word w short (R351): only a CC_ROW that passed its checks was writing anything
that outlives the reset. -/
def State.resetDuring (w : Word) (s : State) : State :=
  let t := match decode w, rowChecks s with
    | .ok .ccRow, .ok _ =>
      { s with
        outMem := Memory.writeBytes s.outMem s.argOffset (tornRow s.freeIx (3 * s.width.toNat))
        freeIx := s.freeIx + 1 }
    | _, _ => s
  t.hardwareReset

/-- One host access (R30). IN must not change while a session is in progress (R82; log 10). -/
def hostStep (run : Instr → State → Answer) (h : HostOp) (s : State) : Answer :=
  match h with
  | .write off bytes v => if wordAccess off bytes then writeReg run off v s else .refused .registerAccess
  | .read off bytes => if wordAccess off bytes then .next { s with rdata := s.readReg off } else .refused .registerAccess
  | .hardwareReset => .next s.hardwareReset
  | .resetDuring w => .next (s.resetDuring w)
  | .supplyIn bs => if s.inSession then .fault .inputChangedInSession else .next { s with inMem := Memory.ofBytes bs }
  | .supplyOut len bs => .next { s with outLen := len, outMem := Memory.ofBytes bs }

/-- The next host access in the total order of R94; with none, the block holds its state (R332; log 1). -/
def nextAccess (run : Instr → State → Answer) (s : State) : Answer :=
  match s.hostq with
  | [] => .next s
  | h :: rest => hostStep run h { s with hostq := rest }

/-- The host access that issues command word w: a write to CMD (R34). -/
def cmdWrite (w : Word) : HostOp := .write 0x00 4 w

end Sys2Proof.Machine
end

