-- ==== Sys2Proof/Machine/Control.lean ====
section
/-! DEFINITION. The session control commands of 41_control.md: SRESET, SET_INPUT, START, FINISH, ABORT, RD_BUF. -/

namespace Sys2Proof.Machine

/-- SRESET (R140): every element but ARG at its reset value (R55). -/
def execSreset (s : State) : Answer :=
  complete 0x01 s (.ok { s.resetBlock with arg := s.arg })

/-- SET_INPUT (R141). From here on IN is fixed (R82). -/
def execSetInput (s : State) : Answer :=
  complete 0x02 s do
    stateCheck .emptyOnly s
    .ok { s with inLen := s.arg, inSession := true }

/-- The channel order an `ord` field names (R142). -/
def channelOrder (ord : BitVec 2) : ChannelOrder := if ord = 0 then .rgb else .bgr

/-- START (R142). -/
def execStart (ord : BitVec 2) (s : State) : Answer :=
  complete 0x03 s do
    require (ord.toNat ≤ 1) (.precond .badField)
    stateCheck .emptyOnly s
    require (s.frameset = true) (.precond .noFrame)
    require (∀ c ∈ s.frameComps, (s.cfg c).cset = true) (.precond .compUnset)
    require (∀ c ∈ s.frameComps, (s.quant (s.cfg c).tq).qvalid = true) (.decodeError .qtUndefined)
    .ok { s.withGeometry.clearPlanes with
          width := s.fx
          height := s.fy
          row := 0
          corder := channelOrder ord
          sess := .started }

/-- FINISH (R143). The session ends (R82). -/
def execFinish (s : State) : Answer :=
  complete 0x04 s do
    stateCheck .started s
    require (s.scanact = false) (.precond .scanActive)
    require (¬ s.row.toNat < s.height.toNat) (.precond .rowsPending)
    require (s.marker = 0xD9) (.decodeError .noEoi)
    .ok { s.clearPlanes with sess := .finished, inSession := false }

/-- ABORT (R144): never fails; it ends the session of STARTED and FAILED (R82); a no-op in EMPTY, FINISHED and ABORTED. -/
def execAbort (s : State) : Answer :=
  complete 0x05 s (.ok (match s.sess with
    | .started | .failed => { s.clearPlanes with scanact := false, sess := .aborted, inSession := false }
    | .empty | .finished | .aborted => s))

/-- The element RD_BUF selects, as 32 bits (R145). -/
def State.bufElement (s : State) (sel : BitVec 3) (idx : BitVec 6) : Word :=
  match sel.toNat with
  | 0 => (at64 s.coef idx.toNat).signExtend 32
  | 1 => at64 s.dq idx.toNat
  | 2 => (at64 s.samp idx.toNat).setWidth 32
  | _ => (s.pred.get idx.toNat).signExtend 32

/-- RD_BUF (R145). -/
def execRdBuf (sel : BitVec 3) (idx : BitVec 6) (s : State) : Answer :=
  complete 0x06 s do
    require (sel.toNat ≤ 3) (.precond .badField)
    require (sel.toNat ≠ 3 ∨ idx.toNat ≤ 2) (.precond .badField)
    stateCheck .notFailed s
    .ok { s with res := s.bufElement sel idx }

end Sys2Proof.Machine
end

