-- ==== Sys2Proof/Machine/Entropy.lean ====
section
/-! DEFINITION. The bit-stream and Huffman commands of 43_entropy.md: DEC_HUFF, GET_BITS, GET_EXT, DEC_BLOCK, DEC_MCU, SCAN_END. -/

namespace Sys2Proof.Machine

/-- DEC_HUFF (R230). -/
def execDecHuff (tc : BitVec 1) (th : BitVec 2) (s : State) : Answer :=
  complete 0x10 s do
    stateCheck .startedScan s
    require ((s.ht tc th).hvalid = true) (.precond .tableUndefined)
    let (sym, pos) ← s.segment.decodeSym (s.ht tc th) s.bitpos.toNat
    .ok { s.atBit pos with res := sym.setWidth 32 }

/-- GET_BITS (R231). -/
def execGetBits (n : BitVec 5) (s : State) : Answer :=
  complete 0x11 s do
    require (n.toNat ≤ 16) (.precond .badField)
    stateCheck .startedScan s
    let v ← s.segment.nextBits n.toNat s.bitpos.toNat
    .ok { s.atBit (s.bitpos.toNat + n.toNat) with res := BitVec.ofNat 32 v }

/-- GET_EXT (R232). -/
def execGetExt (n : BitVec 5) (s : State) : Answer :=
  complete 0x12 s do
    require (n.toNat ≤ 15) (.precond .badField)
    stateCheck .startedScan s
    let v ← s.segment.recvExt n.toNat s.bitpos.toNat
    .ok { s.atBit (s.bitpos.toNat + n.toNat) with res := BitVec.ofInt 32 v }

/-- DEC_BLOCK (R233). -/
def execDecBlock (i : BitVec 2) (s : State) : Answer :=
  complete 0x13 s do
    stateCheck .startedScan s
    require (i.toNat < s.ns.toNat) (.precond .badSlot)
    let (t, kend) ← s.decodeBlock i.toNat
    .ok { t with res := BitVec.ofNat 32 kend }

/-- The restart processing DEC_MCU does before MCU m (R229, R234). -/
def State.restartIfDue (s : State) (m : Nat) : Except Raise State :=
  if restartDue s.ri m then s.restart else .ok s

/-- DEC_MCU (R234). -/
def execDecMcu (s : State) : Answer :=
  complete 0x14 s do
    stateCheck .startedScan s
    require (s.mcucnt.toNat < s.mcutot.toNat) (.precond .scanDone)
    let m := s.mcucnt.toNat
    let s1 ← s.restartIfDue m
    let s2 ← (s1.mcuBlocks m).foldlM State.mcuBlock s1
    .ok { s2 with mcucnt := BitVec.ofNat 32 (m + 1), res := BitVec.ofNat 32 (m + 1) }

/-- SCAN_END (R235). -/
def execScanEnd (s : State) : Answer :=
  complete 0x15 s do
    stateCheck .startedScan s
    require (¬ s.mcucnt.toNat < s.mcutot.toNat) (.precond .scanIncomplete)
    let g := s.segment
    let pos := alignUp s.bitpos.toNat
    require (¬ pos < g.bits) (.decodeError .endTrailing)
    match g.stop with
    | .endOfInput => .error (.decodeError .endNoMarker)
    | .marker code _ next => do
      require (¬ (0xD0 ≤ code.toNat ∧ code.toNat ≤ 0xD7)) (.decodeError .endUnexpectedRst)
      .ok { s.atBit pos with marker := code, res := BitVec.ofNat 32 next, scanact := false }

end Sys2Proof.Machine
end

