-- ==== Sys2Proof/Machine/TableConfig.lean ====
section
/-! DEFINITION. The table, frame and scan configuration commands of 42_config.md: LOAD_QT, LOAD_HT, SET_FRAME, SET_COMP,
SET_DRI, SET_SCAN_COMP, START_SCAN. -/

namespace Sys2Proof.Machine

/-- The k-th entry LOAD_QT reads from offset a (R170): a byte, or two bytes big-endian (R86). -/
def State.quantEntry (s : State) (pq a k : Nat) : BitVec 16 :=
  if pq = 0 then BitVec.ofNat 16 (s.inByte (a + k)).toNat
  else BitVec.ofNat 16 ((s.inByte (a + 2 * k)).toNat * 256 + (s.inByte (a + 2 * k + 1)).toNat)

/-- LOAD_QT (R170). -/
def execLoadQt (pq tq : BitVec 4) (s : State) : Answer :=
  complete 0x08 s do
    stateCheck .emptyOrNoScan s
    require (pq.toNat ≤ 1) (.decodeError .badQtPrecision)
    require (tq.toNat ≤ 3) (.decodeError .badTableId)
    let n := 64 * (pq.toNat + 1)
    require (¬ s.inLen.toNat < s.argOffset + n) (.decodeError .truncTable)
    .ok { s with
          qt := s.qt.set tq.toNat ⟨true, scatterZigzag (s.quantEntry pq.toNat s.argOffset)⟩
          res := BitVec.ofNat 32 n }

/-- The 16 code-length counts LOAD_HT reads from offset a (R171). -/
def State.huffCounts (s : State) (a : Nat) : Vector Byte 16 := Vector.ofFn fun i => s.inByte (a + i)

/-- The m symbols LOAD_HT reads after the counts at offset a (R171). -/
def State.huffSymbols (s : State) (a m : Nat) : List Byte := (List.range m).map fun j => s.inByte (a + 16 + j)

/-- LOAD_HT (R171). -/
def execLoadHt (tc th : BitVec 4) (s : State) : Answer :=
  complete 0x09 s do
    stateCheck .emptyOrNoScan s
    require (tc.toNat ≤ 1) (.decodeError .badTableClass)
    require (th.toNat ≤ 3) (.decodeError .badTableId)
    let a := s.argOffset
    require (¬ s.inLen.toNat < a + 16) (.decodeError .truncTable)
    let counts := s.huffCounts a
    let m := symEnd counts 16
    require (m ≤ 256) (.decodeError .htCount)
    require (¬ s.inLen.toNat < a + 16 + m) (.decodeError .truncTable)
    let symbols := s.huffSymbols a m
    let t ← buildHuff counts symbols
    require (tc.toNat = 0 → ∀ b ∈ symbols, b.toNat ≤ 15) (.decodeError .htDcSymbol)
    .ok { s.setHt (tc.setWidth 1) (th.setWidth 2) t with res := BitVec.ofNat 32 (16 + m) }

/-- SET_FRAME (R172). -/
def execSetFrame (p nf : BitVec 8) (s : State) : Answer :=
  complete 0x0A s do
    stateCheck .emptyOnly s
    require (p.toNat = 8) (.decodeError .precision)
    require (nf.toNat ≠ 0) (.decodeError .badNf)
    require (nf.toNat = 1 ∨ nf.toNat = 3) (.decodeError .components)
    require (s.argLow.toNat ≠ 0) (.decodeError .badDimension)
    require (s.argHigh.toNat ≠ 0) (.decodeError .dnlHeight)
    .ok { s with
          prec := p
          nf := nf.setWidth 2
          fx := s.argLow
          fy := s.argHigh
          comp := ⟨{ s.comp.c0 with cset := false }, { s.comp.c1 with cset := false }, { s.comp.c2 with cset := false }⟩
          frameset := true }

/-- SET_COMP (R173). -/
def execSetComp (c : BitVec 2) (h v : BitVec 4) (tq : BitVec 8) (s : State) : Answer :=
  complete 0x0B s do
    require (c.toNat ≤ 2) (.precond .badField)
    stateCheck .emptyOnly s
    require (s.frameset = true) (.precond .noFrame)
    require (c.toNat < s.nf.toNat) (.precond .badComp)
    require (1 ≤ h.toNat ∧ h.toNat ≤ 4 ∧ 1 ≤ v.toNat ∧ v.toNat ≤ 4) (.decodeError .badSampling)
    require (tq.toNat ≤ 3) (.decodeError .badTableId)
    .ok { s with comp := s.comp.set c.toNat ⟨true, h, v, tq.setWidth 2⟩ }

/-- SET_DRI (R174). -/
def execSetDri (s : State) : Answer :=
  complete 0x0C s do
    stateCheck .emptyOrNoScan s
    .ok { s with ri := s.argLow }

/-- SET_SCAN_COMP (R175). -/
def execSetScanComp (i c : BitVec 2) (td ta : BitVec 4) (s : State) : Answer :=
  complete 0x0D s do
    require (c.toNat ≤ 2) (.precond .badField)
    stateCheck .startedNoScan s
    require (c.toNat < s.nf.toNat) (.precond .badComp)
    require (td.toNat ≤ 3 ∧ ta.toNat ≤ 3) (.decodeError .badTableId)
    .ok { s with sc := s.sc.set i.toNat ⟨true, c, td.setWidth 2, ta.setWidth 2⟩ }

/-- The blocks of an interleaved MCU of the first n scan slots: the sum of H * V (R178). -/
def State.mcuSize (s : State) (n : Nat) : Nat :=
  ((List.range n).map fun i => s.hOf (s.slotComp i) * s.vOf (s.slotComp i)).sum

/-- START_SCAN (R178). -/
def execStartScan (ns : BitVec 8) (s : State) : Answer :=
  complete 0x0E s do
    let n := ns.toNat
    stateCheck .startedNoScan s
    require (n ≠ 0 ∧ n ≤ 4 ∧ n ≤ s.nf.toNat) (.decodeError .badNs)
    require (∀ i ∈ List.range n, (s.slot i).sset = true) (.precond .slotUnset)
    require (∀ i ∈ List.range n, 0 < i → s.slotComp (i - 1) < s.slotComp i) (.decodeError .scanOrder)
    require (1 < n → s.mcuSize n ≤ 10) (.decodeError .mcuTooBig)
    require (∀ i ∈ List.range n, (s.ht 0 (s.slot i).td).hvalid = true ∧ (s.ht 1 (s.slot i).ta).hvalid = true)
      (.decodeError .htUndefined)
    .ok { s with
          ns := BitVec.ofNat 3 n
          seg := s.arg
          bitpos := 0
          pred := .all 0
          rstnext := 0
          mcucnt := 0
          marker := 0
          mcutot := BitVec.ofNat 32 (s.scanMcus n)
          scanact := true }

end Sys2Proof.Machine
end

