-- ==== Sys2Proof/Machine/Transform.lean ====
section
/-! DEFINITION. The block commands of 44_idct.md: DEQUANT, IDCT, PUT_BLOCK. -/

namespace Sys2Proof.Machine

/-- DEQUANT (R270). -/
def execDequant (tq : BitVec 2) (s : State) : Answer :=
  complete 0x18 s do
    stateCheck .started s
    require ((s.quant tq).qvalid = true) (.precond .tableUndefined)
    .ok { s with dq := dequantise s.coef (s.quant tq).q }

/-- IDCT (R271). -/
def execIdct (s : State) : Answer :=
  complete 0x19 s do
    stateCheck .started s
    .ok { s with samp := idctImpl s.dq }

/-- PUT_BLOCK (R272). -/
def execPutBlock (c : BitVec 2) (s : State) : Answer :=
  complete 0x1A s do
    require (c.toNat ≤ 2) (.precond .badField)
    stateCheck .started s
    require (c.toNat < s.nf.toNat) (.precond .badComp)
    let g := s.geom.get c.toNat
    require (s.argLow.toNat < g.pbw ∧ s.argHigh.toNat < g.pbh) (.precond .blockRange)
    let p := Plane.putBlock (s.planes.get c.toNat) s.argLow.toNat s.argHigh.toNat s.samp
    .ok { s with planes := s.planes.set c.toNat p }

end Sys2Proof.Machine
end

