-- ==== Sys2Proof/Machine/Dispatch.lean ====
section
/-! DEFINITION. The meaning of each command: one arm per constructor of Instr. -/

namespace Sys2Proof.Machine

def exec (i : Instr) (s : State) : Host.Outcome State Fault Refusal :=
  match i with
  | .sreset => Sys2Proof.Machine.execSreset s
  | .setInput => Sys2Proof.Machine.execSetInput s
  | .start ord => Sys2Proof.Machine.execStart ord s
  | .finish => Sys2Proof.Machine.execFinish s
  | .abort => Sys2Proof.Machine.execAbort s
  | .rdBuf sel idx => Sys2Proof.Machine.execRdBuf sel idx s
  | .loadQt pq tq => Sys2Proof.Machine.execLoadQt pq tq s
  | .loadHt tc th => Sys2Proof.Machine.execLoadHt tc th s
  | .setFrame p nf => Sys2Proof.Machine.execSetFrame p nf s
  | .setComp c h v tq => Sys2Proof.Machine.execSetComp c h v tq s
  | .setDri => Sys2Proof.Machine.execSetDri s
  | .setScanComp k c td ta => Sys2Proof.Machine.execSetScanComp k c td ta s
  | .startScan ns => Sys2Proof.Machine.execStartScan ns s
  | .decHuff tc th => Sys2Proof.Machine.execDecHuff tc th s
  | .getBits n => Sys2Proof.Machine.execGetBits n s
  | .getExt n => Sys2Proof.Machine.execGetExt n s
  | .decBlock k => Sys2Proof.Machine.execDecBlock k s
  | .decMcu => Sys2Proof.Machine.execDecMcu s
  | .scanEnd => Sys2Proof.Machine.execScanEnd s
  | .dequant tq => Sys2Proof.Machine.execDequant tq s
  | .idct => Sys2Proof.Machine.execIdct s
  | .putBlock c => Sys2Proof.Machine.execPutBlock c s
  | .ccRow => Sys2Proof.Machine.execCcRow s
  | .ccPix => Sys2Proof.Machine.execCcPix s

end Sys2Proof.Machine
end

