-- ==== Sys2Proof/Machine/Step.lean ====
section
/-! DEFINITION. One step of the machine: the next host access, in the order the host makes them (R30, R90, R94). -/

namespace Sys2Proof.Machine

/-- One step: the oldest pending host access, a command write running its command through `exec`. -/
def step (s : State) : Host.Outcome State Fault Refusal := nextAccess exec s

/-- The state whose next host access writes the word with bits w to CMD: the block fetches nothing (R31), and its next command
is the next CMD write (log 1). -/
def State.withFetchWord (s : State) (_nbits w : Nat) : State :=
  { s with hostq := cmdWrite (BitVec.ofNat 32 w) :: s.hostq }

end Sys2Proof.Machine
end

