-- ==== Sys2Proof/Safety.lean ====
section
/-! DEFINITION. What a legal state of the block is, and the tables and notions the statements are written in: the opcode table,
the state table of R320, the value of a bit field, byte stuffing, and the hand pipeline of R120. -/

namespace Sys2Proof.Machine

/-- The (match, mask) rows of spec/opcode_table.json, in its order. -/
def opcodeTable : List (Nat × Nat) :=
  [(0x04000000, 0xFFFFFFFF), (0x08000000, 0xFFFFFFFF), (0x0C000000, 0xFFFFFFFC), (0x10000000, 0xFFFFFFFF),
   (0x14000000, 0xFFFFFFFF), (0x18000000, 0xFFFFF8C0), (0x20000000, 0xFFFFFF00), (0x24000000, 0xFFFFFF00),
   (0x28000000, 0xFFFF0000), (0x2C000000, 0xFFFC0000), (0x30000000, 0xFFFFFFFF), (0x34000000, 0xFFCCFF00)] ++
  [(0x38000000, 0xFFFFFF00), (0x40000000, 0xFFFFFFEC), (0x44000000, 0xFFFFFFE0), (0x48000000, 0xFFFFFFE0),
   (0x4C000000, 0xFFFFFFFC), (0x50000000, 0xFFFFFFFF), (0x54000000, 0xFFFFFFFF), (0x60000000, 0xFFFFFFFC),
   (0x64000000, 0xFFFFFFFF), (0x68000000, 0xFFFFFFFC), (0x70000000, 0xFFFFFFFF), (0x74000000, 0xFFFFFFFF)]

/-- The table has a row with the opcode of w (R115): w's op field is assigned. -/
def opAssigned (w : Word) : Prop := ∃ r ∈ opcodeTable, w.toNat / 2 ^ 26 = r.1 / 2 ^ 26

/-- The table has a row that w matches under its mask: the opcode is assigned and every reserved bit of w is 0 (R115, R116). -/
def matchesRow (w : Word) : Prop := ∃ r ∈ opcodeTable, w &&& BitVec.ofNat 32 r.2 = BitVec.ofNat 32 r.1

/-- The columns of R320's table. -/
inductive StateColumn where
  | empty
  | startedNoScan
  | startedScan
  | finished
  | failed
  | aborted
  deriving DecidableEq, Repr

/-- The column of R320's table a state is in. -/
def State.column (s : State) : StateColumn :=
  match s.sess with
  | .empty => .empty
  | .started => if s.scanact then .startedScan else .startedNoScan
  | .finished => .finished
  | .failed => .failed
  | .aborted => .aborted

/-- R320's table: the cause a command is refused with in each column, `none` where the table says yes. -/
def stateTable : Instr → StateColumn → Option PvCause
  | .sreset, _ | .abort, _ | .ccPix, _ => none
  | .setInput, c | .start _, c | .setFrame _ _, c | .setComp _ _ _ _, c =>
    match c with
    | .empty => none
    | _ => some .wrongState
  | .finish, c =>
    match c with
    | .startedNoScan => none
    | .startedScan => some .scanActive
    | _ => some .wrongState
  | .rdBuf _ _, c =>
    match c with
    | .failed => some .wrongState
    | _ => none
  | .loadQt _ _, c | .loadHt _ _, c | .setDri, c =>
    match c with
    | .empty | .startedNoScan => none
    | .startedScan => some .scanActive
    | _ => some .wrongState
  | .setScanComp _ _ _ _, c | .startScan _, c =>
    match c with
    | .startedNoScan => none
    | .startedScan => some .scanActive
    | _ => some .wrongState
  | .decHuff _ _, c | .getBits _, c | .getExt _, c | .decBlock _, c | .decMcu, c | .scanEnd, c =>
    match c with
    | .startedScan => none
    | .startedNoScan => some .noScan
    | _ => some .wrongState
  | .dequant _, c | .idct, c | .putBlock _, c | .ccRow, c =>
    match c with
    | .startedNoScan | .startedScan => none
    | _ => some .wrongState

/-- The lines every command rule begins with: its encoding (R111, R115), BAD_FIELD for a block field out of range (R117), and its
allowed states (R320). -/
def CommandFront (w : Word) (i : Instr) (s : State) : Prop :=
  decode w = .ok i ∧ (i.wf = false → exec i s = .next (s.refuse i.op .badField)) ∧
  ∀ c, i.wf = true → stateTable i s.column = some c → exec i s = .next (s.refuse i.op c)

/-- The unsigned value of the n data bits from bit pos on, the first one most significant (R85, R213). -/
def Segment.fieldValue (g : Segment) (pos n : Nat) : Nat :=
  ((List.range n).map fun i => g.peekBit (pos + i) * 2 ^ (n - 1 - i)).sum

/-- Where a data bit that the segment does not have is needed: the cause R212 gives. -/
def Segment.exhausted (g : Segment) : ErrCause :=
  match g.stop with
  | .endOfInput => .exhaustedEof
  | .marker _ _ _ => .exhaustedMarker

/-- No code of length 1..n of table t is at bit pos (R215). -/
def Segment.NoCode (g : Segment) (t : HuffTable) (pos n : Nat) : Prop :=
  ∀ l, 1 ≤ l → l ≤ n → ¬ (0 < t.bitsAt l ∧ t.firstAt l ≤ g.fieldValue pos l ∧ g.fieldValue pos l < t.firstAt l + t.bitsAt l)

/-- The cause a symbol at bit pos faults with (R215, R212): BAD_CODE where sixteen bits are there and no code matches them,
exhaustion where the segment ends after n bits, fewer than sixteen, and no code matches those. -/
def Segment.SymFaults (g : Segment) (t : HuffTable) (pos : Nat) (c : ErrCause) : Prop :=
  (c = .badCode ∧ pos + 16 ≤ g.bits ∧ g.NoCode t pos 16) ∨
  ∃ n < 16, c = g.exhausted ∧ g.bits ≤ pos + n ∧ (n = 0 ∨ pos + n ≤ g.bits) ∧ g.NoCode t pos n

/-- One pass of R220's loop that goes on from r to r': a ZRL that stays within position 64 skips 16 positions; a symbol of run r
and size z > 0 skips r positions and puts its extended z-bit field at position k + r, at most 63. -/
def Segment.AcStep (g : Segment) (t : HuffTable) (r r' : BlockRead) : Prop :=
  r.kend < 64 ∧ ∃ (rs : Byte) (p : Nat), g.decodeSym t r.pos = .ok (rs, p) ∧
    let run := rs.toNat / 2 ^ 4
    let size := rs.toNat % 2 ^ 4
    ((rs = 0xF0 ∧ r.kend + 16 ≤ 64 ∧ r' = ⟨r.zzv, p, r.kend + 16⟩) ∨
     (size ≠ 0 ∧ r.kend + run ≤ 63 ∧ p + size ≤ g.bits ∧
      r' = ⟨r.zzv.setIfInBounds (r.kend + run) (BitVec.ofInt 16 (extend (g.fieldValue p size) size)), p + size,
        r.kend + run + 1⟩))

/-- R220's loop ends at r, leaving r': position 64 is reached and no symbol is read, or an end of block is read, a symbol of size
0 and run below 15. -/
def Segment.AcEnds (g : Segment) (t : HuffTable) (r r' : BlockRead) : Prop :=
  (64 ≤ r.kend ∧ r' = r) ∨
  (r.kend < 64 ∧ ∃ (rs : Byte) (p : Nat), g.decodeSym t r.pos = .ok (rs, p) ∧ rs.toNat % 2 ^ 4 = 0 ∧ rs ≠ 0xF0 ∧
    r' = ⟨r.zzv, p, r.kend⟩)

/-- R220's loop faults at r with cause c: no symbol is there; a ZRL passes position 64; a run passes position 63, before its field
is read; the segment ends inside the field. -/
def Segment.AcFaults (g : Segment) (t : HuffTable) (r : BlockRead) (c : ErrCause) : Prop :=
  r.kend < 64 ∧ (g.SymFaults t r.pos c ∨ ∃ (rs : Byte) (p : Nat), g.decodeSym t r.pos = .ok (rs, p) ∧
    let run := rs.toNat / 2 ^ 4
    let size := rs.toNat % 2 ^ 4
    ((rs = 0xF0 ∧ 64 < r.kend + 16 ∧ c = .coefOverflow) ∨
     (size ≠ 0 ∧ 63 < r.kend + run ∧ c = .coefOverflow) ∨
     (size ≠ 0 ∧ r.kend + run ≤ 63 ∧ g.bits < p + size ∧ c = g.exhausted)))

/-- Byte stuffing (R12): every literal 0xFF is followed by 0x00. -/
def stuff (data : List Byte) : List Byte := data.flatMap fun b => if b = 0xFF then [0xFF, 0x00] else [b]

/-- A valid Huffman table as LOAD_HT leaves it (R171, R176): built from its counts, with a symbol for every code. -/
def HuffTable.Built (t : HuffTable) (dc : Bool) : Prop :=
  t.hvalid = true →
    codesFit t.bits = true ∧ (∀ l < 17, 0 < l → t.firstAt l = firstCode t.bits l ∧ t.offAt l = symOffset t.bits l) ∧
    t.huffval.length = symEnd t.bits 16 ∧ symEnd t.bits 16 ≤ 256 ∧ (dc = true → ∀ b ∈ t.huffval, b.toNat ≤ 15)

/-- What every state the block reaches satisfies: the canonical forms, and what the session, the frame, the tables and the scan
promise each other. -/
structure State.Legal (s : State) : Prop where
  inForm : Memory.wf s.inMem
  outForm : Memory.wf s.outMem
  planeForm : ∀ c < 3, risingKeys (s.planes.get c)
  /-- A scan is active only in STARTED (R35). -/
  scanStarted : s.scanact = true → s.sess = .started
  /-- ERR is 0 until a DecodeError (R36). -/
  errClear : s.sess = .empty ∨ s.sess = .started ∨ s.sess = .finished → s.err = 0
  errSet : s.sess = .failed → s.err ≠ 0
  /-- Before START (R39, R40, R45). -/
  unstarted : s.sess = .empty → s.width = 0 ∧ s.height = 0 ∧ s.row = 0 ∧ ∀ i < 4, (s.slot i).sset = false
  /-- "the row cursor never exceeds height" (R40). -/
  rowBound : s.row.toNat ≤ s.height.toNat
  /-- What SET_FRAME accepted (R172). -/
  frame : s.frameset = true → (s.nf.toNat = 1 ∨ s.nf.toNat = 3) ∧ s.fx ≠ 0 ∧ s.fy ≠ 0 ∧ s.prec = 8
  /-- What SET_COMP accepted (R173). -/
  factors : ∀ c < 3, (s.cfg c).cset = true → 1 ≤ s.hOf c ∧ s.hOf c ≤ 4 ∧ 1 ≤ s.vOf c ∧ s.vOf c ≤ 4
  /-- What START checked (R142). -/
  opened : s.sess = .started ∨ s.sess = .finished →
    s.frameset = true ∧ s.width = s.fx ∧ s.height = s.fy ∧
    ∀ c < s.nf.toNat, (s.cfg c).cset = true ∧ (s.quant (s.cfg c).tq).qvalid = true
  /-- What START derived (R51). -/
  geometry : s.sess = .started →
    s.withGeometry.hmax = s.hmax ∧ s.withGeometry.vmax = s.vmax ∧ s.withGeometry.mcux = s.mcux ∧
    s.withGeometry.mcuy = s.mcuy ∧ s.withGeometry.geom = s.geom
  /-- What SET_SCAN_COMP accepted (R175). -/
  slots : ∀ i < 4, (s.slot i).sset = true → s.slotComp i < s.nf.toNat
  /-- What START_SCAN checked, and how far the scan has come (R178, R44, R45). -/
  scan : s.scanact = true →
    1 ≤ s.ns.toNat ∧ s.ns.toNat ≤ s.nf.toNat ∧
    (∀ i < s.ns.toNat, (s.slot i).sset = true ∧ (s.ht 0 (s.slot i).td).hvalid = true ∧
      (s.ht 1 (s.slot i).ta).hvalid = true) ∧
    (∀ i < s.ns.toNat, 0 < i → s.slotComp (i - 1) < s.slotComp i) ∧
    (1 < s.ns.toNat → s.mcuSize s.ns.toNat ≤ 10) ∧
    s.mcutot.toNat = s.scanMcus s.ns.toNat ∧ s.mcucnt.toNat ≤ s.mcutot.toNat ∧ s.bitpos.toNat ≤ s.segment.bits
  /-- What FINISH checked (R143, R358). -/
  closed : s.sess = .finished → s.row = s.height ∧ s.marker = 0xD9
  /-- No command reads IN before a SET_INPUT has fixed it: a scan runs in a session (R82), and before one IN_LEN is 0 and no
  quantisation table is loaded (R141, R170). -/
  held : s.sess = .started → s.inSession = true
  unheld : s.sess = .empty → s.inSession = false → s.inLen = 0 ∧ ∀ i < 4, (s.qt.get i).qvalid = false
  dcTables : ∀ i < 4, (s.htDc.get i).Built true
  acTables : ∀ i < 4, (s.htAc.get i).Built false

/-- Run a command and go on with the next state; a fault or refusal stops the sequence. -/
def andThen (a : Answer) (f : State → Answer) : Answer :=
  match a with
  | .next t => f t
  | .fault r => .fault r
  | .refused r => .refused r

/-- `PIPE_BLOCK s, c, tq, bx, by` of R120 for one block of an MCU: DEC_BLOCK; DEQUANT; IDCT; a host write of the block position
to ARG; PUT_BLOCK. -/
def pipeBlock (s : State) (b : McuBlock) : Answer :=
  andThen (exec (.decBlock (BitVec.ofNat 2 b.slot)) s) fun s1 =>
  andThen (exec (.dequant (s1.cfg b.comp).tq) s1) fun s2 =>
  andThen (exec .idct s2) fun s3 =>
  exec (.putBlock (BitVec.ofNat 2 b.comp)) { s3 with arg := BitVec.ofNat 32 (b.row * 65536 + b.col) }

/-- `PIPE_BLOCK` for each block of a list in turn. -/
def pipeBlocks : List McuBlock → State → Answer
  | [], s => .next s
  | b :: bs, s => andThen (pipeBlock s b) (pipeBlocks bs)

end Sys2Proof.Machine
end

