-- ==== Sys2Proof/Certificates/Slice0/Obligations.lean ====
section
/-! DEFINITION. The statements for the provers. A state `s` stands for every state, also one no run reaches; where a statement
needs more, it says so, by `State.Legal` or by a premise on the state and the operands. -/

open Sys2Proof Sys2Proof.Machine

/-! Encoding and decoding. -/

/-- R110, R111, R115: the word of a command decodes to that command, every field at every value its width admits. -/
def Obligations.DecodeOfEncode : Prop := ∀ i : Instr, decode (encode i) = .ok i

/-- R110, R111: a word that decodes is the word of the command it decodes to, so no two words share a meaning. -/
def Obligations.EncodeOfDecode : Prop := ∀ (w : Word) (i : Instr), decode w = .ok i → encode i = w

/-- Words written out from R111's formats and R115's opcodes (95_test_vectors.md P1, P2, V-ENC). -/
def Obligations.SampleWordsDecode : Prop :=
  decode 0x04000000 = .ok .sreset ∧ decode 0x0C000001 = .ok (.start 1) ∧ decode 0x18000101 = .ok (.rdBuf 1 1) ∧
  decode 0x24000010 = .ok (.loadHt 1 0) ∧ decode 0x28000803 = .ok (.setFrame 8 3) ∧
  decode 0x2C012134 = .ok (.setComp 1 2 1 0x34) ∧ decode 0x34210012 = .ok (.setScanComp 2 1 1 2) ∧
  decode 0x40000013 = .ok (.decHuff 1 3) ∧ decode 0x44000010 = .ok (.getBits 16) ∧ decode 0x60000002 = .ok (.dequant 2) ∧
  decode 0x74000000 = .ok .ccPix ∧ decode 0x00000000 = .error .illegalOpcode ∧ decode 0x04000001 = .error .reservedBits

/-- R116: a written command word with a reserved op, a reserved bit set or a block field out of range is refused with that
cause, the first of the three that holds, and changes nothing but STATUS.RESULT and PVERR. That a step takes the CMD write off a
list of pending accesses is the model's choice (log 1). -/
def Obligations.CommandWordChecks : Prop :=
  ∀ (s : State) (w : Word) (rest : List HostOp), s.hostq = cmdWrite w :: rest →
    (¬ opAssigned w →
      step s = .next { s with hostq := rest, pverr := w.extractLsb' 26 6 ++ 0#18 ++ 0x01#8, result := .precond }) ∧
    (opAssigned w → ¬ matchesRow w →
      step s = .next { s with hostq := rest, pverr := w.extractLsb' 26 6 ++ 0#18 ++ 0x02#8, result := .precond }) ∧
    (∀ i, decode w = .ok i → i.wf = false →
      step s = .next { s with hostq := rest, pverr := w.extractLsb' 26 6 ++ 0#18 ++ 0x03#8, result := .precond }) ∧
    (matchesRow w → ∃ i, decode w = .ok i)

/-- A step runs the decoded command: when the next host access writes to CMD a word that decodes to i, the step is the meaning
of i at the state with that access taken off the list (R34, R94; log 1). -/
def Obligations.StepRunsDecodedCommand : Prop :=
  ∀ (s : State) (w : Word) (i : Instr) (rest : List HostOp), s.hostq = .write 0x00 4 w :: rest → decode w = .ok i →
    step s = exec i { s with hostq := rest }

/-- R117, R318: a command with a block field out of range is refused BAD_FIELD in every state, before any other check; a command
whose block fields are in range never is. -/
def Obligations.BadFieldRefused : Prop :=
  ∀ s : State,
    (∀ ord, 1 < ord.toNat → exec (.start ord) s = .next (s.refuse 0x03 .badField)) ∧
    (∀ sel idx, 3 < sel.toNat ∨ (sel.toNat = 3 ∧ 2 < idx.toNat) →
      exec (.rdBuf sel idx) s = .next (s.refuse 0x06 .badField)) ∧
    (∀ c h v tq, 2 < c.toNat → exec (.setComp c h v tq) s = .next (s.refuse 0x0B .badField)) ∧
    (∀ k c td ta, 2 < c.toNat → exec (.setScanComp k c td ta) s = .next (s.refuse 0x0D .badField)) ∧
    (∀ c, 2 < c.toNat → exec (.putBlock c) s = .next (s.refuse 0x1A .badField)) ∧
    (∀ n, 16 < n.toNat → exec (.getBits n) s = .next (s.refuse 0x11 .badField)) ∧
    (∀ n, 15 < n.toNat → exec (.getExt n) s = .next (s.refuse 0x12 .badField)) ∧
    ∀ i, i.wf = true → exec i s ≠ .next (s.refuse i.op .badField)

/-! The host's side. -/

/-- R34, R88, R91: an aligned word write to ARG changes ARG only; one to a read-only register or a reserved offset changes nothing;
a read changes nothing of the block and returns the register's content; an access that is not an aligned 32-bit word is refused;
with no access pending the block holds its state (R332; how accesses are queued and the read latch are the model's, logs 1
and 2). -/
def Obligations.HostRegisterAccesses : Prop :=
  ∀ (s : State) (off : BitVec 8) (bytes : Nat) (v : Word) (rest : List HostOp),
    (s.hostq = .write 0x04 4 v :: rest → step s = .next { s with hostq := rest, arg := v }) ∧
    (off.toNat % 4 = 0 → off.toNat ≠ 0 → off.toNat ≠ 4 → s.hostq = .write off 4 v :: rest →
      step s = .next { s with hostq := rest }) ∧
    (off.toNat % 4 = 0 → s.hostq = .read off 4 :: rest →
      step s = .next { s with hostq := rest, rdata := ({ s with hostq := rest } : State).readReg off }) ∧
    (bytes ≠ 4 ∨ off.toNat % 4 ≠ 0 → s.hostq = .write off bytes v :: rest ∨ s.hostq = .read off bytes :: rest →
      step s = .refused .registerAccess) ∧
    (s.hostq = [] → step s = .next s)

/-- R82 (log 10): while a session is in progress, supplying IN is a fault; otherwise the supplied bytes become IN. A command
begins a session only as a SET_INPUT that ends OK, and ends one only as SRESET, as the FINISH that goes to FINISHED or as the
ABORT that goes to ABORTED. -/
def Obligations.InputFixedDuringSession : Prop :=
  (∀ (s : State) (bytes : List Byte) (rest : List HostOp), s.hostq = .supplyIn bytes :: rest →
    (s.inSession = true → step s = .fault .inputChangedInSession) ∧
    (s.inSession = false →
      ∃ m, step s = .next { s with hostq := rest, inMem := m } ∧ ∀ a, Memory.read m a = bytes.getD a 0)) ∧
  ∀ (i : Instr) (s t : State), exec i s = .next t →
    t.inMem = s.inMem ∧
    (s.inSession = false → t.inSession = true → i = .setInput ∧ t.result = .ok) ∧
    (s.inSession = true → t.inSession = false →
      i = .sreset ∨ (i = .finish ∧ t.result = .ok ∧ t.sess = .finished) ∨ (i = .abort ∧ t.sess = .aborted))

/-- R35: STATUS, field by field; every reserved field reads 0. -/
def Obligations.StatusFields : Prop :=
  ∀ s : State, let w := s.readReg 0x0C
    (w.extractLsb' 0 2).toNat = (match s.result with | .ok => 0 | .error => 1 | .precond => 2) ∧
    w.extractLsb' 2 2 = 0 ∧
    (w.extractLsb' 4 3).toNat =
      (match s.sess with | .empty => 0 | .started => 1 | .finished => 2 | .failed => 3 | .aborted => 4) ∧
    w.extractLsb' 7 1 = 0 ∧ w.getLsbD 8 = s.scanact ∧ w.getLsbD 9 = s.frameset ∧ w.extractLsb' 10 6 = 0 ∧
    (w.extractLsb' 16 2).toNat = (match s.corder with | .rgb => 0 | .bgr => 1) ∧ w.extractLsb' 18 14 = 0

/-- R34: what each of the other registers reads; CMD and the reserved offsets read 0. -/
def Obligations.RegisterMapReads : Prop :=
  ∀ s : State,
    s.readReg 0x00 = 0 ∧ s.readReg 0x04 = s.arg ∧ s.readReg 0x08 = s.res ∧ s.readReg 0x10 = s.err ∧ s.readReg 0x14 = s.pverr ∧
    (s.readReg 0x18).toNat = s.width.toNat ∧ (s.readReg 0x1C).toNat = s.height.toNat ∧
    (s.readReg 0x20).toNat = s.row.toNat ∧ s.readReg 0x24 = s.inLen ∧ s.readReg 0x28 = s.seg ∧
    (s.readReg 0x2C).toNat = s.bitpos.toNat / 8 ∧ (s.readReg 0x30).toNat = s.bitpos.toNat % 8 ∧
    s.readReg 0x34 = s.mcucnt ∧ s.readReg 0x38 = s.mcutot ∧ (s.readReg 0x3C).toNat = s.marker.toNat ∧
    (s.readReg 0x40).toNat = s.ri.toNat + s.rstnext.toNat * 2 ^ 16 ∧
    (s.readReg 0x44).toNat = s.nf.toNat + s.hmax.toNat * 2 ^ 8 + s.vmax.toNat * 2 ^ 12 + s.ns.toNat * 2 ^ 16 ∧
    ∀ off : BitVec 8, 0x48 ≤ off.toNat → s.readReg off = 0

/-! How a command ends. -/

/-- R313, R322: every command answers a next state, with one of three results; a refusal changes PVERR and RESULT and nothing
else. -/
def Obligations.EveryCommandEnds : Prop :=
  ∀ (i : Instr) (s : State), ∃ t, exec i s = .next t ∧
    (t.result = .ok ∨ t.result = .error ∨
      (t.result = .precond ∧ ∃ c : PvCause, t = { s with pverr := i.op ++ 0#18 ++ c.code, result := .precond }))

/-- R321: what a DecodeError leaves. ERR holds the class, the cause and the opcode; STATE is FAILED, SCANACT 0; every element
but those the rule calls unspecified keeps its value. -/
def Obligations.DecodeErrorEffects : Prop :=
  ∀ (i : Instr) (s t : State), exec i s = .next t → t.result = .error →
    (∃ c : ErrCause, t.err.extractLsb' 0 2 = c.errClass.code ∧ t.err.extractLsb' 2 6 = 0 ∧
      t.err.extractLsb' 8 8 = c.code ∧ t.err.extractLsb' 16 10 = 0 ∧ t.err.extractLsb' 26 6 = i.op) ∧
    t.sess = .failed ∧ t.scanact = false ∧
    t = { s with
          err := t.err, result := .error, sess := .failed, scanact := false, res := t.res, seg := t.seg, bitpos := t.bitpos,
          mcucnt := t.mcucnt, rstnext := t.rstnext, pred := t.pred, coef := t.coef, dq := t.dq, samp := t.samp,
          planes := t.planes, freeIx := t.freeIx }

/-- R320: in a state its table refuses, a well-formed command is refused with the table's cause; where the table says yes, the
command is never refused with one of the state causes. -/
def Obligations.StateTableEnforced : Prop :=
  ∀ (i : Instr) (s : State),
    (∀ c : PvCause, i.wf = true → stateTable i s.column = some c →
      exec i s = .next { s with pverr := i.op ++ 0#18 ++ c.code, result := .precond }) ∧
    (stateTable i s.column = none → ∀ c ∈ [PvCause.wrongState, .scanActive, .noScan], exec i s ≠ .next (s.refuse i.op c))

/-- R325: no command but ABORT and SRESET leaves FAILED or touches ERR there; ABORT goes to ABORTED keeping ERR, SRESET to EMPTY
clearing it; every command but these two and CC_PIX is refused WRONG_STATE, so none raises a DecodeError. -/
def Obligations.FailedLeftOnlyByAbortOrSreset : Prop :=
  ∀ (i : Instr) (s t : State), s.sess = .failed → exec i s = .next t →
    t.result ≠ .error ∧
    (i ≠ .abort → i ≠ .sreset → t.sess = .failed ∧ t.err = s.err) ∧
    (i.wf = true → i ≠ .abort → i ≠ .sreset → i ≠ .ccPix → t = s.refuse i.op .wrongState) ∧
    (i = .abort → t.sess = .aborted ∧ t.err = s.err) ∧
    (i = .sreset → t.sess = .empty ∧ t.err = 0)

/-- R352: the lifecycle. A command changes STATE only as the rule's table lists, and every other command leaves it. -/
def Obligations.LifecycleTransitions : Prop :=
  ∀ (i : Instr) (s t : State), exec i s = .next t →
    (i = .sreset → t.sess = .empty) ∧
    (t.result = .precond → t.sess = s.sess) ∧
    (t.result = .error → (s.sess = .empty ∨ s.sess = .started) ∧ t.sess = .failed) ∧
    (t.result = .ok → i ≠ .sreset →
      (∃ ord, i = .start ord ∧ s.sess = .empty ∧ t.sess = .started ∧ t.row = 0) ∨
      (i = .finish ∧ s.sess = .started ∧ t.sess = .finished) ∨
      (i = .abort ∧ (s.sess = .started ∨ s.sess = .failed) ∧ t.sess = .aborted) ∨
      (i = .ccRow ∧ s.sess = .started ∧ t.sess = .started ∧ t.row = s.row + 1) ∨
      ((∀ ord, i ≠ .start ord) ∧ i ≠ .finish ∧ i ≠ .ccRow ∧
        (i = .abort → s.sess ≠ .started ∧ s.sess ≠ .failed) ∧ t.sess = s.sess))

/-- R38: no command reads RESULT; SCANACT is set by START_SCAN only and cleared by SCAN_END, FINISH, ABORT, SRESET and a
DecodeError only; FRAMESET is set by SET_FRAME only and cleared by SRESET only. -/
def Obligations.FlagWriters : Prop :=
  ∀ (i : Instr) (s t : State), exec i s = .next t →
    (∀ r, exec i { s with result := r } = .next t) ∧
    (s.scanact = false → t.scanact = true → t.result = .ok ∧ ∃ ns, i = .startScan ns) ∧
    (s.scanact = true → t.scanact = false →
      t.result = .error ∨ i = .scanEnd ∨ i = .finish ∨ i = .abort ∨ i = .sreset) ∧
    (s.frameset = false → t.frameset = true → t.result = .ok ∧ ∃ p nf, i = .setFrame p nf) ∧
    (s.frameset = true → t.frameset = false → i = .sreset)

/-- R31, R32: a command that ends OK changes RES, the cursor, MCUCNT and ROW only where its own rule says so. -/
def Obligations.ProgressRegistersWriters : Prop :=
  ∀ (i : Instr) (s t : State), exec i s = .next t → t.result = .ok → i ≠ .sreset →
    t.arg = s.arg ∧
    (t.res ≠ s.res → (∃ a b, i = .rdBuf a b) ∨ (∃ a b, i = .loadQt a b) ∨ (∃ a b, i = .loadHt a b) ∨
      (∃ a b, i = .decHuff a b) ∨ (∃ a, i = .getBits a) ∨ (∃ a, i = .getExt a) ∨ (∃ a, i = .decBlock a) ∨ i = .decMcu ∨
      i = .scanEnd ∨ i = .ccRow ∨ i = .ccPix) ∧
    (t.seg ≠ s.seg → (∃ n, i = .startScan n) ∨ i = .decMcu) ∧
    (t.bitpos ≠ s.bitpos → (∃ n, i = .startScan n) ∨ (∃ a b, i = .decHuff a b) ∨ (∃ a, i = .getBits a) ∨
      (∃ a, i = .getExt a) ∨ (∃ a, i = .decBlock a) ∨ i = .decMcu ∨ i = .scanEnd) ∧
    (t.mcucnt ≠ s.mcucnt → (∃ n, i = .startScan n) ∨ i = .decMcu) ∧
    (t.row ≠ s.row → (∃ o, i = .start o) ∨ i = .ccRow)

/-- R82, R83, R54: no command changes IN, OUT_LEN or the host's accesses, and only CC_ROW writes OUT. -/
def Obligations.OnlyCcRowWritesOut : Prop :=
  ∀ (i : Instr) (s t : State), exec i s = .next t →
    t.inMem = s.inMem ∧ t.outLen = s.outLen ∧ t.hostq = s.hostq ∧ t.rdata = s.rdata ∧ (i ≠ .ccRow → t.outMem = s.outMem)

/-- R42, R43 and D14: a Huffman table changes only when LOAD_HT loads its class and id, a quantisation table only when LOAD_QT
loads its id, and SRESET clears them all. -/
def Obligations.TablesChangeOnlyByLoad : Prop :=
  ∀ (i : Instr) (s t : State), exec i s = .next t → i ≠ .sreset →
    (∀ (tc : BitVec 1) (th : BitVec 2), t.ht tc th ≠ s.ht tc th →
      t.result = .ok ∧ ∃ tc' th' : BitVec 4, i = .loadHt tc' th' ∧ tc'.toNat = tc.toNat ∧ th'.toNat = th.toNat) ∧
    (∀ k : BitVec 2, t.quant k ≠ s.quant k →
      t.result = .ok ∧ ∃ pq tq : BitVec 4, i = .loadQt pq tq ∧ tq.toNat = k.toNat)

/-! Reset and the session commands. -/

/-- R55: the reset values the rule gives; no session is in progress (R82; log 10). -/
def Obligations.ResetValues : Prop :=
  let s := State.reset
  s.arg = 0 ∧ s.res = 0 ∧ s.result = .ok ∧ s.sess = .empty ∧ s.scanact = false ∧ s.frameset = false ∧ s.corder = .rgb ∧
  s.err = 0 ∧ s.pverr = 0 ∧ s.width = 0 ∧ s.height = 0 ∧ s.row = 0 ∧ s.inLen = 0 ∧ s.seg = 0 ∧ s.bitpos = 0 ∧
  s.mcucnt = 0 ∧ s.mcutot = 0 ∧ s.marker = 0 ∧ s.ns = 0 ∧ s.ri = 0 ∧ s.rstnext = 0 ∧
  (∀ tc th, (s.ht tc th).hvalid = false) ∧ (∀ k, (s.quant k).qvalid = false) ∧
  s.prec = 0 ∧ s.nf = 0 ∧ s.fx = 0 ∧ s.fy = 0 ∧ (∀ c, s.cfg c = ⟨false, 0, 0, 0⟩) ∧ (∀ i, s.slot i = ⟨false, 0, 0, 0⟩) ∧
  (∀ c, s.pred.get c = 0) ∧ (∀ i, at64 s.coef i = 0 ∧ at64 s.dq i = 0 ∧ at64 s.samp i = 0) ∧
  (∀ c x y, Plane.sample? (s.planes.get c) x y = none) ∧ s.inSession = false

/-- R350, R140: hardware reset and SRESET give every element of the block its reset value, hardware reset ARG too and SRESET
not; the host's side is not the block's to reset, and the counter of free values goes on (logs 1 to 3, 17). SRESET completes so
in every state. -/
def Obligations.ResetAndSreset : Prop :=
  ∀ (s : State) (rest : List HostOp),
    (s.hostq = .hardwareReset :: rest →
      step s = .next { State.reset with
        inMem := s.inMem, outMem := s.outMem, outLen := s.outLen, hostq := rest, rdata := s.rdata, freeIx := s.freeIx }) ∧
    decode (0x01#6 ++ 0#26) = .ok .sreset ∧
    exec .sreset s = .next { State.reset with
      arg := s.arg, inMem := s.inMem, outMem := s.outMem, outLen := s.outLen, hostq := s.hostq, rdata := s.rdata,
      freeIx := s.freeIx }

/-- R141: SET_INPUT in EMPTY takes the length from ARG and changes nothing else, but for the model's own record that the session in
which IN is fixed is in progress (R82 as the model reads it, log 10). -/
def Obligations.SetInputTakesLength : Prop :=
  ∀ s : State, CommandFront (0x02#6 ++ 0#26) .setInput s ∧
    (s.sess = .empty → exec .setInput s = .next { s with inLen := s.arg, inSession := true, result := .ok })

/-- R142, R51: START in EMPTY with `ord` in range: NO_FRAME, COMP_UNSET, QT_UNDEFINED in that order; else it opens the session: the
geometry of R51, WIDTH, HEIGHT, ROW, CORDER, every sample invalid; nothing else changes. -/
def Obligations.StartOpensSession : Prop :=
  ∀ (ord : BitVec 2) (s : State), CommandFront (0x03#6 ++ 0#24 ++ ord) (.start ord) s ∧
    (ord.toNat ≤ 1 → s.sess = .empty → s.frameset = false → exec (.start ord) s = .next (s.refuse 0x03 .noFrame)) ∧
    (ord.toNat ≤ 1 → s.sess = .empty → s.frameset = true → (∃ c < s.nf.toNat, (s.cfg c).cset = false) →
      exec (.start ord) s = .next (s.refuse 0x03 .compUnset)) ∧
    (ord.toNat ≤ 1 → s.sess = .empty → s.frameset = true → (∀ c < s.nf.toNat, (s.cfg c).cset = true) →
      (∃ c < s.nf.toNat, (s.quant (s.cfg c).tq).qvalid = false) →
      exec (.start ord) s = .next (s.decodeError 0x03 .qtUndefined)) ∧
    (ord.toNat ≤ 1 → s.sess = .empty → s.frameset = true →
      (∀ c < s.nf.toNat, (s.cfg c).cset = true ∧ (s.quant (s.cfg c).tq).qvalid = true) →
      ∃ t, exec (.start ord) s = .next t ∧
        t = { s with
              width := s.fx, height := s.fy, row := 0, corder := if ord = 0 then .rgb else .bgr, sess := .started,
              result := .ok, planes := ⟨[], [], []⟩, hmax := t.hmax, vmax := t.vmax, mcux := t.mcux, mcuy := t.mcuy,
              geom := t.geom } ∧
        (∀ c < s.nf.toNat, s.hOf c ≤ t.hmax.toNat ∧ s.vOf c ≤ t.vmax.toNat) ∧
        (1 ≤ s.nf.toNat → (∃ c < s.nf.toNat, s.hOf c = t.hmax.toNat) ∧ ∃ c < s.nf.toNat, s.vOf c = t.vmax.toNat) ∧
        t.mcux = (s.fx.toNat + 8 * t.hmax.toNat - 1) / (8 * t.hmax.toNat) ∧
        t.mcuy = (s.fy.toNat + 8 * t.vmax.toNat - 1) / (8 * t.vmax.toNat) ∧
        ∀ c < s.nf.toNat,
          (t.geom.get c).pbw = t.mcux * s.hOf c ∧ (t.geom.get c).pbh = t.mcuy * s.vOf c ∧
          (t.geom.get c).xc = (s.fx.toNat * s.hOf c + t.hmax.toNat - 1) / t.hmax.toNat ∧
          (t.geom.get c).yc = (s.fy.toNat * s.vOf c + t.vmax.toNat - 1) / t.vmax.toNat)

/-- R143: FINISH, its checks in order, and its effect. That it ends the session in which IN is fixed stands in the model's own record
(R82 as the model reads it, log 10). -/
def Obligations.FinishClosesSession : Prop :=
  ∀ s : State, CommandFront (0x04#6 ++ 0#26) .finish s ∧
    (s.sess = .started → s.scanact = true → exec .finish s = .next (s.refuse 0x04 .scanActive)) ∧
    (s.sess = .started → s.scanact = false → s.row.toNat < s.height.toNat →
      exec .finish s = .next (s.refuse 0x04 .rowsPending)) ∧
    (s.sess = .started → s.scanact = false → s.height.toNat ≤ s.row.toNat → s.marker ≠ 0xD9 →
      exec .finish s = .next (s.decodeError 0x04 .noEoi)) ∧
    (s.sess = .started → s.scanact = false → s.height.toNat ≤ s.row.toNat → s.marker = 0xD9 →
      exec .finish s = .next { s with planes := ⟨[], [], []⟩, sess := .finished, inSession := false, result := .ok })

/-- R144: ABORT ends OK in every state; from STARTED and FAILED it goes to ABORTED, clearing SCANACT and the samples; elsewhere it
changes nothing but RESULT. Two clauses are the model's reading: the elements a DecodeError left unspecified stay as they are
(log 9), and the model's own record of the session in which IN is fixed ends with it from STARTED and FAILED only (R82, log 10). -/
def Obligations.AbortNeverFails : Prop :=
  ∀ s : State, decode (0x05#6 ++ 0#26) = .ok .abort ∧
    (s.sess = .started ∨ s.sess = .failed →
      exec .abort s = .next { s with
        scanact := false, planes := ⟨[], [], []⟩, sess := .aborted, inSession := false, result := .ok }) ∧
    (s.sess = .empty ∨ s.sess = .finished ∨ s.sess = .aborted → exec .abort s = .next { s with result := .ok })

/-- R145: RD_BUF reads one element, COEF and PRED sign-extended, SAMP zero-extended. -/
def Obligations.RdBufReadsElement : Prop :=
  ∀ (sel : BitVec 3) (idx : BitVec 6) (s : State),
    CommandFront (0x06#6 ++ 0#15 ++ sel ++ 0#2 ++ idx) (.rdBuf sel idx) s ∧
    (sel.toNat ≤ 3 → (sel.toNat = 3 → idx.toNat ≤ 2) → s.sess ≠ .failed →
      ∃ r : Word, exec (.rdBuf sel idx) s = .next { s with res := r, result := .ok } ∧
        (sel.toNat = 0 → r.toInt = (s.coef[idx.toNat]'idx.isLt).toInt) ∧
        (sel.toNat = 1 → r.toInt = (s.dq[idx.toNat]'idx.isLt).toInt) ∧
        (sel.toNat = 2 → r.toNat = (s.samp[idx.toNat]'idx.isLt).toNat) ∧
        (sel.toNat = 3 → r.toInt = (s.pred.get idx.toNat).toInt))

/-! Tables, frame and scan configuration. -/

/-- R170, R177: LOAD_QT in an allowed state: its errors in order, and the table it loads, entry k of the stream at natural index
ZZ[k], 16-bit entries big-endian. -/
def Obligations.LoadQtLoadsTable : Prop :=
  ∀ (pq tq : BitVec 4) (s : State), CommandFront (0x08#6 ++ 0#18 ++ pq ++ tq) (.loadQt pq tq) s ∧
    (s.sess = .empty ∨ (s.sess = .started ∧ s.scanact = false) →
      (1 < pq.toNat → exec (.loadQt pq tq) s = .next (s.decodeError 0x08 .badQtPrecision)) ∧
      (pq.toNat ≤ 1 → 3 < tq.toNat → exec (.loadQt pq tq) s = .next (s.decodeError 0x08 .badTableId)) ∧
      (pq.toNat ≤ 1 → tq.toNat ≤ 3 → s.inLen.toNat < s.arg.toNat + 64 * (pq.toNat + 1) →
        exec (.loadQt pq tq) s = .next (s.decodeError 0x08 .truncTable)) ∧
      (pq.toNat ≤ 1 → tq.toNat ≤ 3 → s.arg.toNat + 64 * (pq.toNat + 1) ≤ s.inLen.toNat →
        ∃ q : Vector (BitVec 16) 64,
          exec (.loadQt pq tq) s = .next { s with
            qt := s.qt.set tq.toNat ⟨true, q⟩, res := BitVec.ofNat 32 (64 * (pq.toNat + 1)), result := .ok } ∧
          (pq.toNat = 0 → ∀ k < 64, (at64 q (zz k)).toNat = (s.inByte (s.arg.toNat + k)).toNat) ∧
          (pq.toNat = 1 → ∀ k < 64, (at64 q (zz k)).toNat =
            (s.inByte (s.arg.toNat + 2 * k)).toNat * 256 + (s.inByte (s.arg.toNat + 2 * k + 1)).toNat)))

/-- R171, R176: LOAD_HT in an allowed state with counts L and symbols S that pass every check loads the table built from them:
FIRST and OFF by R176's recurrence. -/
def Obligations.LoadHtBuildsTable : Prop :=
  ∀ (tc th : BitVec 4) (s : State) (counts : Vector Byte 16) (m : Nat),
    s.sess = .empty ∨ (s.sess = .started ∧ s.scanact = false) → tc.toNat ≤ 1 → th.toNat ≤ 3 →
    (∀ l, (h : l < 16) → counts[l] = s.inByte (s.arg.toNat + l)) → m = (counts.toList.map BitVec.toNat).sum →
    s.arg.toNat + 16 + m ≤ s.inLen.toNat → m ≤ 256 → codesFit counts = true →
    (tc.toNat = 0 → ∀ j < m, (s.inByte (s.arg.toNat + 16 + j)).toNat ≤ 15) →
    ∃ t : HuffTable,
      exec (.loadHt tc th) s = .next
        (if tc.toNat = 0 then { s with htDc := s.htDc.set th.toNat t, res := BitVec.ofNat 32 (16 + m), result := .ok }
         else { s with htAc := s.htAc.set th.toNat t, res := BitVec.ofNat 32 (16 + m), result := .ok }) ∧
      t.hvalid = true ∧ t.bits = counts ∧ t.huffval.length = m ∧
      (∀ j < m, t.symAt j = s.inByte (s.arg.toNat + 16 + j)) ∧
      t.firstAt 1 = 0 ∧ t.offAt 1 = 0 ∧
      ∀ l, 1 ≤ l → l < 16 →
        t.firstAt (l + 1) = 2 * (t.firstAt l + t.bitsAt l) ∧ t.offAt (l + 1) = t.offAt l + t.bitsAt l

/-- R171's encoding, allowed states and errors, in order; `codesFit` is R176's test of the code space. -/
def Obligations.LoadHtChecksInOrder : Prop :=
  ∀ (tc th : BitVec 4) (s : State),
    let a := s.arg.toNat
    let counts := s.huffCounts a
    let m := (counts.toList.map BitVec.toNat).sum
    CommandFront (0x09#6 ++ 0#18 ++ tc ++ th) (.loadHt tc th) s ∧
    (s.sess = .empty ∨ (s.sess = .started ∧ s.scanact = false) →
      (1 < tc.toNat → exec (.loadHt tc th) s = .next (s.decodeError 0x09 .badTableClass)) ∧
      (tc.toNat ≤ 1 → 3 < th.toNat → exec (.loadHt tc th) s = .next (s.decodeError 0x09 .badTableId)) ∧
      (tc.toNat ≤ 1 → th.toNat ≤ 3 → s.inLen.toNat < a + 16 →
        exec (.loadHt tc th) s = .next (s.decodeError 0x09 .truncTable)) ∧
      (tc.toNat ≤ 1 → th.toNat ≤ 3 → a + 16 ≤ s.inLen.toNat → 256 < m →
        exec (.loadHt tc th) s = .next (s.decodeError 0x09 .htCount)) ∧
      (tc.toNat ≤ 1 → th.toNat ≤ 3 → a + 16 ≤ s.inLen.toNat → m ≤ 256 → s.inLen.toNat < a + 16 + m →
        exec (.loadHt tc th) s = .next (s.decodeError 0x09 .truncTable)) ∧
      (tc.toNat ≤ 1 → th.toNat ≤ 3 → a + 16 + m ≤ s.inLen.toNat → m ≤ 256 → codesFit counts = false →
        exec (.loadHt tc th) s = .next (s.decodeError 0x09 .htCodespace)) ∧
      (tc.toNat = 0 → th.toNat ≤ 3 → a + 16 + m ≤ s.inLen.toNat → m ≤ 256 → codesFit counts = true →
        (∃ j < m, 15 < (s.inByte (a + 16 + j)).toNat) →
        exec (.loadHt tc th) s = .next (s.decodeError 0x09 .htDcSymbol)))

/-- R172: SET_FRAME in EMPTY: its errors in order, and what it records. -/
def Obligations.SetFrameRecordsFrame : Prop :=
  ∀ (p nf : BitVec 8) (s : State),
    let x := s.arg.toNat % 2 ^ 16
    let y := s.arg.toNat / 2 ^ 16
    let good := nf.toNat = 1 ∨ nf.toNat = 3
    CommandFront (0x0A#6 ++ 0#10 ++ p ++ nf) (.setFrame p nf) s ∧
    (s.sess = .empty →
      (p.toNat ≠ 8 → exec (.setFrame p nf) s = .next (s.decodeError 0x0A .precision)) ∧
      (p.toNat = 8 → nf.toNat = 0 → exec (.setFrame p nf) s = .next (s.decodeError 0x0A .badNf)) ∧
      (p.toNat = 8 → nf.toNat ≠ 0 → ¬ good → exec (.setFrame p nf) s = .next (s.decodeError 0x0A .components)) ∧
      (p.toNat = 8 → good → x = 0 → exec (.setFrame p nf) s = .next (s.decodeError 0x0A .badDimension)) ∧
      (p.toNat = 8 → good → x ≠ 0 → y = 0 → exec (.setFrame p nf) s = .next (s.decodeError 0x0A .dnlHeight)) ∧
      (p.toNat = 8 → good → x ≠ 0 → y ≠ 0 →
        exec (.setFrame p nf) s = .next { s with
          prec := p, nf := BitVec.ofNat 2 nf.toNat, fx := BitVec.ofNat 16 x, fy := BitVec.ofNat 16 y,
          comp := ⟨{ s.comp.c0 with cset := false }, { s.comp.c1 with cset := false }, { s.comp.c2 with cset := false }⟩,
          frameset := true, result := .ok }))

/-- R173: SET_COMP in EMPTY with `c` in range: its refusals and errors in order, and what it records. -/
def Obligations.SetCompRecordsComponent : Prop :=
  ∀ (c : BitVec 2) (h v : BitVec 4) (tq : BitVec 8) (s : State),
    let factorsOk := 1 ≤ h.toNat ∧ h.toNat ≤ 4 ∧ 1 ≤ v.toNat ∧ v.toNat ≤ 4
    CommandFront (0x0B#6 ++ 0#8 ++ c ++ h ++ v ++ tq) (.setComp c h v tq) s ∧
    (c.toNat ≤ 2 → s.sess = .empty →
      (s.frameset = false → exec (.setComp c h v tq) s = .next (s.refuse 0x0B .noFrame)) ∧
      (s.frameset = true → s.nf.toNat ≤ c.toNat → exec (.setComp c h v tq) s = .next (s.refuse 0x0B .badComp)) ∧
      (s.frameset = true → c.toNat < s.nf.toNat → ¬ factorsOk →
        exec (.setComp c h v tq) s = .next (s.decodeError 0x0B .badSampling)) ∧
      (s.frameset = true → c.toNat < s.nf.toNat → factorsOk → 3 < tq.toNat →
        exec (.setComp c h v tq) s = .next (s.decodeError 0x0B .badTableId)) ∧
      (s.frameset = true → c.toNat < s.nf.toNat → factorsOk → tq.toNat ≤ 3 →
        exec (.setComp c h v tq) s = .next { s with
          comp := s.comp.set c.toNat ⟨true, h, v, BitVec.ofNat 2 tq.toNat⟩, result := .ok }))

/-- R174: SET_DRI. -/
def Obligations.SetDriTakesInterval : Prop :=
  ∀ s : State, CommandFront (0x0C#6 ++ 0#26) .setDri s ∧
    (s.sess = .empty ∨ (s.sess = .started ∧ s.scanact = false) →
      exec .setDri s = .next { s with ri := BitVec.ofNat 16 (s.arg.toNat % 2 ^ 16), result := .ok })

/-- R175: SET_SCAN_COMP in STARTED with no scan and `c` in range. -/
def Obligations.SetScanCompRecordsSlot : Prop :=
  ∀ (k c : BitVec 2) (td ta : BitVec 4) (s : State),
    CommandFront (0x0D#6 ++ 0#4 ++ k ++ 0#2 ++ c ++ 0#8 ++ td ++ ta) (.setScanComp k c td ta) s ∧
    (c.toNat ≤ 2 → s.sess = .started → s.scanact = false →
      (s.nf.toNat ≤ c.toNat → exec (.setScanComp k c td ta) s = .next (s.refuse 0x0D .badComp)) ∧
      (c.toNat < s.nf.toNat → 3 < td.toNat ∨ 3 < ta.toNat →
        exec (.setScanComp k c td ta) s = .next (s.decodeError 0x0D .badTableId)) ∧
      (c.toNat < s.nf.toNat → td.toNat ≤ 3 → ta.toNat ≤ 3 →
        exec (.setScanComp k c td ta) s = .next { s with
          sc := s.sc.set k.toNat ⟨true, c, BitVec.ofNat 2 td.toNat, BitVec.ofNat 2 ta.toNat⟩, result := .ok }))

/-- R178, R228: START_SCAN in STARTED with no scan, its slots set, in order, small enough and with loaded tables, begins the
scan. -/
def Obligations.StartScanBeginsScan : Prop :=
  ∀ (ns : BitVec 8) (s : State), s.sess = .started → s.scanact = false → 1 ≤ ns.toNat → ns.toNat ≤ 4 →
    ns.toNat ≤ s.nf.toNat →
    (∀ i < ns.toNat, (s.slot i).sset = true ∧ (s.ht 0 (s.slot i).td).hvalid = true ∧ (s.ht 1 (s.slot i).ta).hvalid = true) →
    (∀ i, i + 1 < ns.toNat → s.slotComp i < s.slotComp (i + 1)) →
    (1 < ns.toNat → ((List.range ns.toNat).map fun i => s.hOf (s.slotComp i) * s.vOf (s.slotComp i)).sum ≤ 10) →
    ∃ total : Nat,
      exec (.startScan ns) s = .next { s with
        ns := BitVec.ofNat 3 ns.toNat, seg := s.arg, bitpos := 0, pred := ⟨0, 0, 0⟩, rstnext := 0, mcucnt := 0, marker := 0,
        mcutot := BitVec.ofNat 32 total, scanact := true, result := .ok } ∧
      (1 < ns.toNat → total = s.mcux * s.mcuy) ∧
      (ns.toNat = 1 → total =
        (((s.geom.get (s.slotComp 0)).xc + 8 - 1) / 8) * (((s.geom.get (s.slotComp 0)).yc + 8 - 1) / 8))

/-- R178's encoding, allowed states and checks in order: BAD_NS, SLOT_UNSET, SCAN_ORDER, MCU_TOO_BIG, HT_UNDEFINED. -/
def Obligations.StartScanChecksInOrder : Prop :=
  ∀ (ns : BitVec 8) (s : State),
    let n := ns.toNat
    let bad := n = 0 ∨ 4 < n ∨ s.nf.toNat < n
    let unset := ∃ i < n, (s.slot i).sset = false
    let disorder := ∃ i, i + 1 < n ∧ s.slotComp (i + 1) ≤ s.slotComp i
    let big := 1 < n ∧ 10 < ((List.range n).map fun i => s.hOf (s.slotComp i) * s.vOf (s.slotComp i)).sum
    let noTable := ∃ i < n, (s.ht 0 (s.slot i).td).hvalid = false ∨ (s.ht 1 (s.slot i).ta).hvalid = false
    CommandFront (0x0E#6 ++ 0#18 ++ ns) (.startScan ns) s ∧
    (s.sess = .started → s.scanact = false →
      (bad → exec (.startScan ns) s = .next (s.decodeError 0x0E .badNs)) ∧
      (¬ bad → unset → exec (.startScan ns) s = .next (s.refuse 0x0E .slotUnset)) ∧
      (¬ bad → ¬ unset → disorder → exec (.startScan ns) s = .next (s.decodeError 0x0E .scanOrder)) ∧
      (¬ bad → ¬ unset → ¬ disorder → big → exec (.startScan ns) s = .next (s.decodeError 0x0E .mcuTooBig)) ∧
      (¬ bad → ¬ unset → ¬ disorder → ¬ big → noTable →
        exec (.startScan ns) s = .next (s.decodeError 0x0E .htUndefined)))

/-! The bit stream and the entropy decoder. -/

/-- R210: a segment that holds stuffed data, then fill bytes, then a marker code gives the data back, unstuffed, and stops at the
marker: its code, the offset of its first 0xFF, the offset after its code. One that runs to the end of IN, or to 0xFF bytes that
IN ends with, stops at END with its data unstuffed. -/
def Obligations.SegmentUnstuffs : Prop :=
  ∀ (s : State) (data : List Byte) (fill : Nat),
    (∀ code : Byte, 1 ≤ fill → code ≠ 0x00 → code ≠ 0xFF →
      let bytes := stuff data ++ List.replicate fill 0xFF ++ [code]
      s.seg.toNat + bytes.length ≤ s.inLen.toNat →
      (∀ i, (h : i < bytes.length) → s.inByte (s.seg.toNat + i) = bytes[i]) →
      s.segment = ⟨data, .marker code (s.seg.toNat + (stuff data).length) (s.seg.toNat + bytes.length)⟩) ∧
    (s.seg.toNat + (stuff data ++ List.replicate fill 0xFF).length = s.inLen.toNat →
      (∀ i, (h : i < (stuff data ++ List.replicate fill 0xFF).length) →
        s.inByte (s.seg.toNat + i) = (stuff data ++ List.replicate fill 0xFF)[i]) →
      s.segment = ⟨data, .endOfInput⟩)

/-- R215, R176: with a table that LOAD_HT accepts, the data bits of the j-th code of length l decode to its symbol, and exactly l
bits are consumed: no shorter code matches first. -/
def Obligations.CanonicalCodeDecodes : Prop :=
  ∀ (g : Segment) (t : HuffTable) (dc : Bool) (pos l j : Nat), t.hvalid = true → t.Built dc → 1 ≤ l → l ≤ 16 →
    j < t.bitsAt l → pos + l ≤ g.bits → g.fieldValue pos l = t.firstAt l + j →
    g.decodeSym t pos = .ok (t.symAt (t.offAt l + j), pos + l)

/-- R230, R215: DEC_HUFF puts the symbol in RES and moves the cursor by the length of its code; an unloaded table is refused. -/
def Obligations.DecHuffDecodesSymbol : Prop :=
  ∀ (tc : BitVec 1) (th : BitVec 2) (s : State), CommandFront (0x10#6 ++ 0#21 ++ tc ++ 0#2 ++ th) (.decHuff tc th) s ∧
    (s.sess = .started → s.scanact = true → (s.ht tc th).hvalid = false →
      exec (.decHuff tc th) s = .next (s.refuse 0x10 .tableUndefined)) ∧
    (∀ (dc : Bool) (l j : Nat), s.sess = .started → s.scanact = true → (s.ht tc th).hvalid = true →
      (s.ht tc th).Built dc → 1 ≤ l → l ≤ 16 → j < (s.ht tc th).bitsAt l → s.bitpos.toNat + l ≤ s.segment.bits →
      s.segment.fieldValue s.bitpos.toNat l = (s.ht tc th).firstAt l + j →
      exec (.decHuff tc th) s = .next { s with
        bitpos := s.bitpos + BitVec.ofNat 35 l,
        res := BitVec.ofNat 32 ((s.ht tc th).symAt ((s.ht tc th).offAt l + j)).toNat,
        result := .ok })

/-- R215, R212: with a loaded table, when no code matches the bits there are, DEC_HUFF faults: BAD_CODE after 16 bits, exhaustion
by how the segment ends after fewer. -/
def Obligations.DecHuffFaults : Prop :=
  ∀ (tc : BitVec 1) (th : BitVec 2) (s : State) (n : Nat), s.sess = .started → s.scanact = true →
    (s.ht tc th).hvalid = true →
    (∀ l, 1 ≤ l → l ≤ n → ¬ (0 < (s.ht tc th).bitsAt l ∧
      (s.ht tc th).firstAt l ≤ s.segment.fieldValue s.bitpos.toNat l ∧
      s.segment.fieldValue s.bitpos.toNat l < (s.ht tc th).firstAt l + (s.ht tc th).bitsAt l)) →
    (n = 16 → s.bitpos.toNat + 16 ≤ s.segment.bits → exec (.decHuff tc th) s = .next (s.decodeError 0x10 .badCode)) ∧
    (n < 16 → s.segment.bits ≤ s.bitpos.toNat + n → s.bitpos.toNat + n ≤ s.segment.bits →
      exec (.decHuff tc th) s = .next (s.decodeError 0x10 s.segment.exhausted))

/-- R231, R213, R212: GET_BITS takes n bits, the first most significant, and faults when the segment has fewer. -/
def Obligations.GetBitsTakesField : Prop :=
  ∀ (n : BitVec 5) (s : State), CommandFront (0x11#6 ++ 0#21 ++ n) (.getBits n) s ∧
    (n.toNat ≤ 16 → s.sess = .started → s.scanact = true →
      (n.toNat = 0 ∨ s.bitpos.toNat + n.toNat ≤ s.segment.bits →
        exec (.getBits n) s = .next { s with
          bitpos := s.bitpos + BitVec.ofNat 35 n.toNat,
          res := BitVec.ofNat 32 (s.segment.fieldValue s.bitpos.toNat n.toNat),
          result := .ok }) ∧
      (0 < n.toNat → s.segment.bits < s.bitpos.toNat + n.toNat →
        exec (.getBits n) s = .next (s.decodeError 0x11 s.segment.exhausted)))

/-- R232, R216, R212: GET_EXT takes an n-bit magnitude field and extends it: a field whose first bit is 0 stands for a negative
value. -/
def Obligations.GetExtExtendsField : Prop :=
  ∀ (n : BitVec 5) (s : State), CommandFront (0x12#6 ++ 0#21 ++ n) (.getExt n) s ∧
    (n.toNat ≤ 15 → s.sess = .started → s.scanact = true →
      let v := s.segment.fieldValue s.bitpos.toNat n.toNat
      (n.toNat = 0 ∨ s.bitpos.toNat + n.toNat ≤ s.segment.bits →
        exec (.getExt n) s = .next { s with
          bitpos := s.bitpos + BitVec.ofNat 35 n.toNat,
          res := BitVec.ofInt 32
            (if n.toNat = 0 then 0 else if v < 2 ^ (n.toNat - 1) then (v : Int) - 2 ^ n.toNat + 1 else v),
          result := .ok }) ∧
      (0 < n.toNat → s.segment.bits < s.bitpos.toNat + n.toNat →
        exec (.getExt n) s = .next (s.decodeError 0x12 s.segment.exhausted)))

/-- R233, R218, R220, R221: DEC_BLOCK on a slot out of use is refused. When the block of its slot decodes: COEF, the predictor of
the slot's component, the cursor and RES are written and nothing else; KEND is in 1..64. When its DC symbol or its difference
field is not there, it faults. When they are there, and m is where any number of AC symbols that go on leave the loop: if the
loop ends at m, COEF at ZZ[k] is the k-th coefficient for every k; if it faults at m, so does the command. -/
def Obligations.DecBlockDecodesSlot : Prop :=
  ∀ (k : BitVec 2) (s : State), CommandFront (0x13#6 ++ 0#24 ++ k) (.decBlock k) s ∧
    (s.sess = .started → s.scanact = true → s.ns.toNat ≤ k.toNat →
      exec (.decBlock k) s = .next (s.refuse 0x13 .badSlot)) ∧
    (∀ (t : State) (kend : Nat), s.sess = .started → s.scanact = true → k.toNat < s.ns.toNat →
      s.decodeBlock k.toNat = .ok (t, kend) →
      exec (.decBlock k) s = .next { s with
        coef := t.coef, pred := s.pred.set (s.slotComp k.toNat) (at64 t.coef 0), bitpos := t.bitpos,
        res := BitVec.ofNat 32 kend, result := .ok } ∧
      1 ≤ kend ∧ kend ≤ 64 ∧ s.bitpos.toNat + 2 ≤ t.bitpos.toNat ∧ t.bitpos.toNat ≤ s.segment.bits) ∧
    (s.sess = .started → s.scanact = true → k.toNat < s.ns.toNat →
      let g := s.segment
      let dcTable := s.ht 0 (s.slot k.toNat).td
      let acTable := s.ht 1 (s.slot k.toNat).ta
      (∀ c, g.SymFaults dcTable s.bitpos.toNat c → exec (.decBlock k) s = .next (s.decodeError 0x13 c)) ∧
      ∀ (sym : Byte) (p : Nat), g.decodeSym dcTable s.bitpos.toNat = .ok (sym, p) →
        (g.bits < p + sym.toNat → exec (.decBlock k) s = .next (s.decodeError 0x13 g.exhausted)) ∧
        (p + sym.toNat ≤ g.bits →
          let dc := BitVec.ofInt 16
            ((s.pred.get (s.slotComp k.toNat)).toInt + extend (g.fieldValue p sym.toNat) sym.toNat)
          ∀ m : BlockRead,
            Relation.ReflTransGen (g.AcStep acTable) ⟨(Vector.replicate 64 0).set 0 dc, p + sym.toNat, 1⟩ m →
            (∀ r : BlockRead, g.AcEnds acTable m r →
              ∃ v : Vector (BitVec 16) 64,
                exec (.decBlock k) s = .next { s with
                  coef := v, pred := s.pred.set (s.slotComp k.toNat) dc, bitpos := BitVec.ofNat 35 r.pos,
                  res := BitVec.ofNat 32 r.kend, result := .ok } ∧
                ∀ n < 64, at64 v (zz n) = at64 r.zzv n) ∧
            (∀ c, g.AcFaults acTable m c → exec (.decBlock k) s = .next (s.decodeError 0x13 c))))

/-- R218, R220, R217: a block whose AC part is an end of block at once: the DC difference is added to the predictor modulo 2^16,
every other coefficient is 0, KEND is 1. An AC symbol of size 0 and run below 15 is an end of block. -/
def Obligations.DecBlockDcOnly : Prop :=
  ∀ (k : BitVec 2) (s : State) (dcSym acSym : Byte) (p1 p2 : Nat), s.sess = .started → s.scanact = true →
    k.toNat < s.ns.toNat →
    s.segment.decodeSym (s.ht 0 (s.slot k.toNat).td) s.bitpos.toNat = .ok (dcSym, p1) →
    p1 + dcSym.toNat ≤ s.segment.bits →
    s.segment.decodeSym (s.ht 1 (s.slot k.toNat).ta) (p1 + dcSym.toNat) = .ok (acSym, p2) →
    acSym.toNat % 16 = 0 → acSym.toNat ≠ 0xF0 →
    ∃ dc : BitVec 16,
      dc = BitVec.ofInt 16 ((s.pred.get (s.slotComp k.toNat)).toInt +
        extend (s.segment.fieldValue p1 dcSym.toNat) dcSym.toNat) ∧
      exec (.decBlock k) s = .next { s with
        coef := (Vector.replicate 64 0).set 0 dc, pred := s.pred.set (s.slotComp k.toNat) dc,
        bitpos := BitVec.ofNat 35 p2, res := 1, result := .ok }

/-- R234, R229: DEC_MCU, when the restart that is due and the blocks of MCU number MCUCNT go through: MCUCNT and RES count it; the
cursor, RSTNEXT, the predictors, the block buffers and the planes are as those steps leave them, and nothing else changes. When
the blocks before some block go through and that block's decoding faults, DEC_MCU faults with its cause. With every MCU decoded
it is refused. -/
def Obligations.DecMcuCountsMcu : Prop :=
  ∀ s : State, CommandFront (0x14#6 ++ 0#26) .decMcu s ∧
    (s.sess = .started → s.scanact = true → s.mcutot.toNat ≤ s.mcucnt.toNat →
      exec .decMcu s = .next (s.refuse 0x14 .scanDone)) ∧
    (∀ s1 s2 : State, s.sess = .started → s.scanact = true → s.mcucnt.toNat < s.mcutot.toNat →
      (if 0 < s.ri.toNat ∧ 0 < s.mcucnt.toNat ∧ s.mcucnt.toNat % s.ri.toNat = 0 then s.restart = .ok s1 else s1 = s) →
      (s1.mcuBlocks s.mcucnt.toNat).foldlM State.mcuBlock s1 = .ok s2 →
      exec .decMcu s = .next { s with
        seg := s1.seg, rstnext := s1.rstnext, bitpos := s2.bitpos, pred := s2.pred, coef := s2.coef, dq := s2.dq,
        samp := s2.samp, planes := s2.planes, mcucnt := s.mcucnt + 1, res := s.mcucnt + 1, result := .ok }) ∧
    (∀ (s1 u : State) (done left : List McuBlock) (b : McuBlock) (c : ErrCause),
      s.sess = .started → s.scanact = true → s.mcucnt.toNat < s.mcutot.toNat →
      (if 0 < s.ri.toNat ∧ 0 < s.mcucnt.toNat ∧ s.mcucnt.toNat % s.ri.toNat = 0 then s.restart = .ok s1 else s1 = s) →
      s1.mcuBlocks s.mcucnt.toNat = done ++ b :: left → done.foldlM State.mcuBlock s1 = .ok u →
      u.decodeBlock b.slot = .error (.decodeError c) →
      exec .decMcu s = .next (s.decodeError 0x14 c))

/-- R222, R229: the restart before an MCU: whole data bytes left, no marker, or another marker than RSTm fault in that order; else
the segment moves past the marker, the predictors are 0 and RSTNEXT goes on modulo 8. -/
def Obligations.RestartBetweenIntervals : Prop :=
  ∀ s : State, s.sess = .started → s.scanact = true → s.mcucnt.toNat < s.mcutot.toNat → 0 < s.ri.toNat →
    0 < s.mcucnt.toNat → s.mcucnt.toNat % s.ri.toNat = 0 →
    let aligned := 8 * ((s.bitpos.toNat + 7) / 8)
    (aligned < s.segment.bits → exec .decMcu s = .next (s.decodeError 0x14 .rstTrailing)) ∧
    (s.segment.bits ≤ aligned → s.segment.stop = .endOfInput → exec .decMcu s = .next (s.decodeError 0x14 .rstMissing)) ∧
    (∀ code a n, s.segment.bits ≤ aligned → s.segment.stop = .marker code a n → code.toNat ≠ 0xD0 + s.rstnext.toNat →
      exec .decMcu s = .next (s.decodeError 0x14 .rstMismatch)) ∧
    (∀ code a n, s.segment.bits ≤ aligned → s.segment.stop = .marker code a n → code.toNat = 0xD0 + s.rstnext.toNat →
      s.restart = .ok { s with
        seg := BitVec.ofNat 32 n, bitpos := 0, pred := ⟨0, 0, 0⟩,
        rstnext := BitVec.ofNat 3 ((s.rstnext.toNat + 1) % 8) })

/-- R120, R234: on a legal state where no restart is due, a DEC_MCU that ends OK leaves what PIPE_BLOCK for each of its blocks in
turn leaves, but for ARG, RES and the MCU count. -/
def Obligations.DecMcuEqualsHandPipeline : Prop :=
  ∀ s t : State, s.Legal → s.scanact = true → restartDue s.ri s.mcucnt.toNat = false →
    exec .decMcu s = .next t → t.result = .ok →
    ∃ a k, pipeBlocks (s.mcuBlocks s.mcucnt.toNat) s = .next { t with arg := a, res := k, mcucnt := s.mcucnt }

/-- R235: SCAN_END with a scan active, its checks in order and its effect. -/
def Obligations.ScanEndAtMarker : Prop :=
  ∀ s : State,
    let aligned := 8 * ((s.bitpos.toNat + 7) / 8)
    CommandFront (0x15#6 ++ 0#26) .scanEnd s ∧
    (s.sess = .started → s.scanact = true →
      (s.mcucnt.toNat < s.mcutot.toNat → exec .scanEnd s = .next (s.refuse 0x15 .scanIncomplete)) ∧
      (s.mcutot.toNat ≤ s.mcucnt.toNat → aligned < s.segment.bits →
        exec .scanEnd s = .next (s.decodeError 0x15 .endTrailing)) ∧
      (s.mcutot.toNat ≤ s.mcucnt.toNat → s.segment.bits ≤ aligned → s.segment.stop = .endOfInput →
        exec .scanEnd s = .next (s.decodeError 0x15 .endNoMarker)) ∧
      (∀ code a n, s.mcutot.toNat ≤ s.mcucnt.toNat → s.segment.bits ≤ aligned → s.segment.stop = .marker code a n →
        0xD0 ≤ code.toNat → code.toNat ≤ 0xD7 → exec .scanEnd s = .next (s.decodeError 0x15 .endUnexpectedRst)) ∧
      (∀ code a n, s.mcutot.toNat ≤ s.mcucnt.toNat → s.segment.bits ≤ aligned → s.segment.stop = .marker code a n →
        code.toNat < 0xD0 ∨ 0xD7 < code.toNat →
        exec .scanEnd s = .next { s with
          bitpos := BitVec.ofNat 35 aligned, marker := code, res := BitVec.ofNat 32 n, scanact := false, result := .ok }))

/-! Inverse quantisation, the inverse DCT, the planes. -/

/-- R270, R266: DEQUANT multiplies elementwise, exactly; COEF and everything else is unchanged; an unloaded table is refused. -/
def Obligations.DequantMultipliesExactly : Prop :=
  ∀ (tq : BitVec 2) (s : State), CommandFront (0x18#6 ++ 0#24 ++ tq) (.dequant tq) s ∧
    (s.sess = .started → (s.quant tq).qvalid = false → exec (.dequant tq) s = .next (s.refuse 0x18 .tableUndefined)) ∧
    (s.sess = .started → (s.quant tq).qvalid = true →
      ∃ d, exec (.dequant tq) s = .next { s with dq := d, result := .ok } ∧
        ∀ i < 64, (at64 d i).toInt = (at64 s.coef i).toInt * (at64 (s.quant tq).q i).toNat)

/-- R271, R268, R263: IDCT in STARTED: the two passes as sums with floor shifts, level shift and saturation, sample by sample. -/
def Obligations.IdctComputesSamples : Prop :=
  ∀ s : State, CommandFront (0x19#6 ++ 0#26) .idct s ∧
    (s.sess = .started →
      ∃ v : Vector Byte 64, exec .idct s = .next { s with samp := v, result := .ok } ∧
        ∀ x y, x < 8 → y < 8 →
          let r1 : Nat → Int := fun u =>
            (∑ w ∈ Finset.range 8, idctK y w * (at64 s.dq (8 * w + u)).toInt + 1024) / 2 ^ 11
          let t : Int := (∑ u ∈ Finset.range 8, idctK x u * r1 u + 16384) / 2 ^ 15
          ((at64 v (8 * y + x)).toNat : Int) = max 0 (min 255 (t + 128)))

/-- R265: on a DC-only block the 64 samples are equal and within 1 of the rounded reference, and differ from it only where
DQ[0]/8 is an exact half. -/
def Obligations.IdctDcOnlyAccuracy : Prop :=
  ∀ dq : Vector (BitVec 32) 64, (∀ i, 0 < i → i < 64 → at64 dq i = 0) →
    -262144 ≤ (at64 dq 0).toInt → (at64 dq 0).toInt ≤ 262143 →
    let d := (at64 dq 0).toInt
    let rhaz : Int := if 0 ≤ d then (d + 4) / 8 else -((-d + 4) / 8)
    let ref : Int := max 0 (min 255 (rhaz + 128))
    ∃ v : Int, (∀ i < 64, ((at64 (idctInt dq) i).toNat : Int) = v) ∧ |v - ref| ≤ 1 ∧ (v ≠ ref → d % 8 = 4)

/-- R272: PUT_BLOCK stores SAMP at its block of the plane and marks the 64 samples valid; every other sample of the plane and every
other plane is as before; the refusals in order. -/
def Obligations.PutBlockStoresSamples : Prop :=
  ∀ (c : BitVec 2) (s : State),
    let bx := s.arg.toNat % 2 ^ 16
    let row := s.arg.toNat / 2 ^ 16
    let g := s.geom.get c.toNat
    CommandFront (0x1A#6 ++ 0#24 ++ c) (.putBlock c) s ∧
    (c.toNat ≤ 2 → s.sess = .started →
      (s.nf.toNat ≤ c.toNat → exec (.putBlock c) s = .next (s.refuse 0x1A .badComp)) ∧
      (c.toNat < s.nf.toNat → g.pbw ≤ bx ∨ g.pbh ≤ row → exec (.putBlock c) s = .next (s.refuse 0x1A .blockRange)) ∧
      (c.toNat < s.nf.toNat → bx < g.pbw → row < g.pbh →
        ∃ p : Plane, exec (.putBlock c) s = .next { s with planes := s.planes.set c.toNat p, result := .ok } ∧
          (∀ x y, x < 8 → y < 8 → Plane.sample? p (8 * bx + x) (8 * row + y) = some (at64 s.samp (8 * y + x))) ∧
          ∀ x y, x < 524288 → ¬ (x / 8 = bx ∧ y / 8 = row) →
            Plane.sample? p x y = Plane.sample? (s.planes.get c.toNat) x y))

/-! Output. -/

/-- R293, R291, R87: CC_ROW in STARTED: ROW_LIMIT, OUT_RANGE (no wrap-around), NOT_READY in that order; else it writes the 3*WIDTH
bytes of row ROW at the offset in ARG, three for each pixel in CORDER's order, and no other byte of OUT; ROW and RES count it. -/
def Obligations.CcRowWritesRow : Prop :=
  ∀ s : State, CommandFront (0x1C#6 ++ 0#26) .ccRow s ∧
    (s.sess = .started →
      (s.height.toNat ≤ s.row.toNat → exec .ccRow s = .next (s.refuse 0x1C .rowLimit)) ∧
      (s.row.toNat < s.height.toNat → s.outLen < s.arg.toNat + 3 * s.width.toNat →
        exec .ccRow s = .next (s.refuse 0x1C .outRange)) ∧
      (s.row.toNat < s.height.toNat → s.arg.toNat + 3 * s.width.toNat ≤ s.outLen →
        (∃ x < s.width.toNat, ∃ c < s.nf.toNat,
          Plane.sample? (s.planes.get c) (s.sampleX c x) (s.sampleY c s.row.toNat) = none) →
        exec .ccRow s = .next (s.refuse 0x1C .notReady)) ∧
      (s.row.toNat < s.height.toNat → s.arg.toNat + 3 * s.width.toNat ≤ s.outLen →
        (∀ x < s.width.toNat, ∀ c < s.nf.toNat,
          (Plane.sample? (s.planes.get c) (s.sampleX c x) (s.sampleY c s.row.toNat)).isSome = true) →
        ∃ m, exec .ccRow s = .next { s with
            outMem := m, row := s.row + 1, res := BitVec.ofNat 32 (s.row.toNat + 1), result := .ok } ∧
          (∀ x < s.width.toNat,
            let p := s.pixel x s.row.toNat
            Memory.read m (s.arg.toNat + 3 * x) = (if s.corder = .rgb then p.b0 else p.b2) ∧
            Memory.read m (s.arg.toNat + 3 * x + 1) = p.b1 ∧
            Memory.read m (s.arg.toNat + 3 * x + 2) = (if s.corder = .rgb then p.b2 else p.b0)) ∧
          ∀ a, a < s.arg.toNat ∨ s.arg.toNat + 3 * s.width.toNat ≤ a → Memory.read m a = Memory.read s.outMem a))

/-- R292, R290: the pixel a row shows, in a frame of three components: each component's sample at the floor-scaled position, and
the conversion matrix with floor shifts and saturation; with one component the luminance sample three times. -/
def Obligations.PixelNearest : Prop :=
  ∀ (s : State) (x y : Nat),
    let smp : Nat → Byte := fun c =>
      (Plane.sample? (s.planes.get c) (x * s.hOf c / s.hmax.toNat) (y * s.vOf c / s.vmax.toNat)).getD 0
    let sat : Int → Int := fun v => max 0 (min 255 v)
    (s.nf.toNat = 1 → s.pixel x y =
      ⟨(Plane.sample? (s.planes.get 0) x y).getD 0, (Plane.sample? (s.planes.get 0) x y).getD 0,
       (Plane.sample? (s.planes.get 0) x y).getD 0⟩) ∧
    (s.nf.toNat = 3 →
      let l : Int := (smp 0).toNat
      let cb : Int := (smp 1).toNat - 128
      let cr : Int := (smp 2).toNat - 128
      ((s.pixel x y).b0.toNat : Int) = sat (l + (91881 * cr + 32768) / 2 ^ 16) ∧
      ((s.pixel x y).b1.toNat : Int) = sat (l + (-22554 * cb - 46802 * cr + 32768) / 2 ^ 16) ∧
      ((s.pixel x y).b2.toNat : Int) = sat (l + (116130 * cb + 32768) / 2 ^ 16))

/-- R296 (a), (b): with one component, the three bytes of every pixel a CC_ROW writes are equal; with neutral chroma the converter
gives the luminance three times. -/
def Obligations.GrayPixelsHaveEqualChannels : Prop :=
  (∀ s t : State, s.nf.toNat = 1 → exec .ccRow s = .next t → t.result = .ok →
    ∀ x < s.width.toNat,
      Memory.read t.outMem (s.arg.toNat + 3 * x) = Memory.read t.outMem (s.arg.toNat + 3 * x + 1) ∧
      Memory.read t.outMem (s.arg.toNat + 3 * x + 1) = Memory.read t.outMem (s.arg.toNat + 3 * x + 2)) ∧
  ∀ y : Byte, convYcc y 128 128 = ⟨y, y, y⟩

/-- R294, R290: CC_PIX in every state: the three output bytes of the triple in ARG, saturated, in CORDER's order. -/
def Obligations.CcPixConvertsTriple : Prop :=
  ∀ s : State,
    let l : Int := (s.arg.toNat % 256 : Nat)
    let cb : Int := (s.arg.toNat / 2 ^ 8 % 256 : Nat) - 128
    let cr : Int := (s.arg.toNat / 2 ^ 16 % 256 : Nat) - 128
    let sat : Int → Int := fun v => max 0 (min 255 v)
    let r := sat (l + (91881 * cr + 32768) / 2 ^ 16)
    let g := sat (l + (-22554 * cb - 46802 * cr + 32768) / 2 ^ 16)
    let b := sat (l + (116130 * cb + 32768) / 2 ^ 16)
    decode (0x1D#6 ++ 0#26) = .ok .ccPix ∧
    ∃ v : Word, exec .ccPix s = .next { s with res := v, result := .ok } ∧
      (v.toNat : Int) = (if s.corder = .rgb then r + g * 256 + b * 65536 else b + g * 256 + r * 65536)

/-! Invariants and what a command cannot depend on. -/

/-- The reset state is legal. -/
def Obligations.LegalAtReset : Prop := State.reset.Legal

/-- Every step keeps a legal state legal: the canonical forms of IN, OUT and the planes; SCANACT only in STARTED; ERR 0 until a
fault; ROW at most HEIGHT; the geometry, the tables, the slots and the scan as the commands that set them checked them; MCUCNT at
most MCUTOT and the cursor inside the segment; IN fixed by a SET_INPUT before anything is decoded from it. -/
def Obligations.LegalKeptByStep : Prop := ∀ s t : State, s.Legal → step s = .next t → t.Legal

/-- R225, R226, R227: the blocks of MCU m. Interleaved: slot by slot, row by row, column by column, block column mx*H + i and block
row my*V + j; the block (i, j) of slot n follows all blocks of the slots before it and j*H + i of its own. Alone: the one block
at column m mod BW, row m div BW. In an active scan every one of them lies inside the plane of its component. -/
def Obligations.BlocksInsidePlanes : Prop :=
  (∀ (s : State) (m : Nat),
    let size := fun n => s.hOf (s.slotComp n) * s.vOf (s.slotComp n)
    let before := fun n => ((List.range n).map size).sum
    let wide := ((s.geom.get (s.slotComp 0)).xc + 8 - 1) / 8
    (1 < s.ns.toNat →
      (s.mcuBlocks m).length = before s.ns.toNat ∧
      ∀ n i j, n < s.ns.toNat → i < s.hOf (s.slotComp n) → j < s.vOf (s.slotComp n) →
        (s.mcuBlocks m)[before n + j * s.hOf (s.slotComp n) + i]? = some
          { slot := n, comp := s.slotComp n,
            col := m % s.mcux * s.hOf (s.slotComp n) + i, row := m / s.mcux * s.vOf (s.slotComp n) + j }) ∧
    (s.ns.toNat = 1 →
      s.mcuBlocks m = [{ slot := 0, comp := s.slotComp 0, col := m % wide, row := m / wide }])) ∧
  ∀ (s : State) (m : Nat) (b : McuBlock), s.Legal → s.scanact = true → m < s.mcutot.toNat → b ∈ s.mcuBlocks m →
    b.slot < s.ns.toNat ∧ b.comp = s.slotComp b.slot ∧ b.comp < s.nf.toNat ∧
    b.col < (s.geom.get b.comp).pbw ∧ b.row < (s.geom.get b.comp).pbh

/-- R81: no command reads IN at or past IN_LEN: two buffers that agree below it give the same next state. -/
def Obligations.NoReadPastInLen : Prop :=
  ∀ (i : Instr) (s t : State) (m : Memory), (∀ a < s.inLen.toNat, Memory.read m a = Memory.read s.inMem a) →
    exec i s = .next t → exec i { s with inMem := m } = .next { t with inMem := m }

/-- R83: the block never reads OUT: whatever OUT held, a command does the same and writes the same bytes. -/
def Obligations.OutNeverRead : Prop :=
  ∀ (i : Instr) (s t : State) (m : Memory), exec i s = .next t →
    ∃ m', exec i { s with outMem := m } = .next { t with outMem := m' } ∧
      ∀ a, (Memory.read t.outMem a = Memory.read s.outMem a ∧ Memory.read m' a = Memory.read m a) ∨
        Memory.read t.outMem a = Memory.read m' a
end

