-- ==== Sys2Proof/Laws/State.lean ====
section
/-! SUPPORT. One lemma per field and named update of the state, each true by definition, so that no later proof unfolds an update. -/

namespace Sys2Proof.Machine

/-! Fields after `State.refuse`. -/

@[simp] theorem State.refuse_arg (s : State) (op : BitVec 6) (c : PvCause) : (s.refuse op c).arg = s.arg := rfl
@[simp] theorem State.refuse_res (s : State) (op : BitVec 6) (c : PvCause) : (s.refuse op c).res = s.res := rfl
@[simp] theorem State.refuse_result (s : State) (op : BitVec 6) (c : PvCause) : (s.refuse op c).result = .precond := rfl
@[simp] theorem State.refuse_sess (s : State) (op : BitVec 6) (c : PvCause) : (s.refuse op c).sess = s.sess := rfl
@[simp] theorem State.refuse_scanact (s : State) (op : BitVec 6) (c : PvCause) : (s.refuse op c).scanact = s.scanact := rfl
@[simp] theorem State.refuse_frameset (s : State) (op : BitVec 6) (c : PvCause) : (s.refuse op c).frameset = s.frameset := rfl
@[simp] theorem State.refuse_corder (s : State) (op : BitVec 6) (c : PvCause) : (s.refuse op c).corder = s.corder := rfl
@[simp] theorem State.refuse_err (s : State) (op : BitVec 6) (c : PvCause) : (s.refuse op c).err = s.err := rfl
@[simp] theorem State.refuse_pverr (s : State) (op : BitVec 6) (c : PvCause) : (s.refuse op c).pverr = pverrWord op c := rfl
@[simp] theorem State.refuse_width (s : State) (op : BitVec 6) (c : PvCause) : (s.refuse op c).width = s.width := rfl
@[simp] theorem State.refuse_height (s : State) (op : BitVec 6) (c : PvCause) : (s.refuse op c).height = s.height := rfl
@[simp] theorem State.refuse_row (s : State) (op : BitVec 6) (c : PvCause) : (s.refuse op c).row = s.row := rfl
@[simp] theorem State.refuse_inLen (s : State) (op : BitVec 6) (c : PvCause) : (s.refuse op c).inLen = s.inLen := rfl
@[simp] theorem State.refuse_htDc (s : State) (op : BitVec 6) (c : PvCause) : (s.refuse op c).htDc = s.htDc := rfl
@[simp] theorem State.refuse_htAc (s : State) (op : BitVec 6) (c : PvCause) : (s.refuse op c).htAc = s.htAc := rfl
@[simp] theorem State.refuse_qt (s : State) (op : BitVec 6) (c : PvCause) : (s.refuse op c).qt = s.qt := rfl
@[simp] theorem State.refuse_seg (s : State) (op : BitVec 6) (c : PvCause) : (s.refuse op c).seg = s.seg := rfl
@[simp] theorem State.refuse_bitpos (s : State) (op : BitVec 6) (c : PvCause) : (s.refuse op c).bitpos = s.bitpos := rfl
@[simp] theorem State.refuse_ns (s : State) (op : BitVec 6) (c : PvCause) : (s.refuse op c).ns = s.ns := rfl
@[simp] theorem State.refuse_sc (s : State) (op : BitVec 6) (c : PvCause) : (s.refuse op c).sc = s.sc := rfl
@[simp] theorem State.refuse_mcucnt (s : State) (op : BitVec 6) (c : PvCause) : (s.refuse op c).mcucnt = s.mcucnt := rfl
@[simp] theorem State.refuse_mcutot (s : State) (op : BitVec 6) (c : PvCause) : (s.refuse op c).mcutot = s.mcutot := rfl
@[simp] theorem State.refuse_marker (s : State) (op : BitVec 6) (c : PvCause) : (s.refuse op c).marker = s.marker := rfl
@[simp] theorem State.refuse_ri (s : State) (op : BitVec 6) (c : PvCause) : (s.refuse op c).ri = s.ri := rfl
@[simp] theorem State.refuse_rstnext (s : State) (op : BitVec 6) (c : PvCause) : (s.refuse op c).rstnext = s.rstnext := rfl
@[simp] theorem State.refuse_pred (s : State) (op : BitVec 6) (c : PvCause) : (s.refuse op c).pred = s.pred := rfl
@[simp] theorem State.refuse_coef (s : State) (op : BitVec 6) (c : PvCause) : (s.refuse op c).coef = s.coef := rfl
@[simp] theorem State.refuse_dq (s : State) (op : BitVec 6) (c : PvCause) : (s.refuse op c).dq = s.dq := rfl
@[simp] theorem State.refuse_samp (s : State) (op : BitVec 6) (c : PvCause) : (s.refuse op c).samp = s.samp := rfl
@[simp] theorem State.refuse_prec (s : State) (op : BitVec 6) (c : PvCause) : (s.refuse op c).prec = s.prec := rfl
@[simp] theorem State.refuse_nf (s : State) (op : BitVec 6) (c : PvCause) : (s.refuse op c).nf = s.nf := rfl
@[simp] theorem State.refuse_fx (s : State) (op : BitVec 6) (c : PvCause) : (s.refuse op c).fx = s.fx := rfl
@[simp] theorem State.refuse_fy (s : State) (op : BitVec 6) (c : PvCause) : (s.refuse op c).fy = s.fy := rfl
@[simp] theorem State.refuse_comp (s : State) (op : BitVec 6) (c : PvCause) : (s.refuse op c).comp = s.comp := rfl
@[simp] theorem State.refuse_hmax (s : State) (op : BitVec 6) (c : PvCause) : (s.refuse op c).hmax = s.hmax := rfl
@[simp] theorem State.refuse_vmax (s : State) (op : BitVec 6) (c : PvCause) : (s.refuse op c).vmax = s.vmax := rfl
@[simp] theorem State.refuse_mcux (s : State) (op : BitVec 6) (c : PvCause) : (s.refuse op c).mcux = s.mcux := rfl
@[simp] theorem State.refuse_mcuy (s : State) (op : BitVec 6) (c : PvCause) : (s.refuse op c).mcuy = s.mcuy := rfl
@[simp] theorem State.refuse_geom (s : State) (op : BitVec 6) (c : PvCause) : (s.refuse op c).geom = s.geom := rfl
@[simp] theorem State.refuse_planes (s : State) (op : BitVec 6) (c : PvCause) : (s.refuse op c).planes = s.planes := rfl
@[simp] theorem State.refuse_inMem (s : State) (op : BitVec 6) (c : PvCause) : (s.refuse op c).inMem = s.inMem := rfl
@[simp] theorem State.refuse_outMem (s : State) (op : BitVec 6) (c : PvCause) : (s.refuse op c).outMem = s.outMem := rfl
@[simp] theorem State.refuse_outLen (s : State) (op : BitVec 6) (c : PvCause) : (s.refuse op c).outLen = s.outLen := rfl
@[simp] theorem State.refuse_hostq (s : State) (op : BitVec 6) (c : PvCause) : (s.refuse op c).hostq = s.hostq := rfl
@[simp] theorem State.refuse_rdata (s : State) (op : BitVec 6) (c : PvCause) : (s.refuse op c).rdata = s.rdata := rfl
@[simp] theorem State.refuse_freeIx (s : State) (op : BitVec 6) (c : PvCause) : (s.refuse op c).freeIx = s.freeIx := rfl
@[simp] theorem State.refuse_inSession (s : State) (op : BitVec 6) (c : PvCause) : (s.refuse op c).inSession = s.inSession := rfl

/-! Fields after `State.decodeError`. -/

@[simp] theorem State.decodeError_arg (s : State) (op : BitVec 6) (c : ErrCause) : (s.decodeError op c).arg = s.arg := rfl
@[simp] theorem State.decodeError_res (s : State) (op : BitVec 6) (c : ErrCause) : (s.decodeError op c).res = Config.freeRes s.freeIx := rfl
@[simp] theorem State.decodeError_result (s : State) (op : BitVec 6) (c : ErrCause) : (s.decodeError op c).result = .error := rfl
@[simp] theorem State.decodeError_sess (s : State) (op : BitVec 6) (c : ErrCause) : (s.decodeError op c).sess = .failed := rfl
@[simp] theorem State.decodeError_scanact (s : State) (op : BitVec 6) (c : ErrCause) : (s.decodeError op c).scanact = false := rfl
@[simp] theorem State.decodeError_frameset (s : State) (op : BitVec 6) (c : ErrCause) : (s.decodeError op c).frameset = s.frameset := rfl
@[simp] theorem State.decodeError_corder (s : State) (op : BitVec 6) (c : ErrCause) : (s.decodeError op c).corder = s.corder := rfl
@[simp] theorem State.decodeError_err (s : State) (op : BitVec 6) (c : ErrCause) : (s.decodeError op c).err = errWord op c := rfl
@[simp] theorem State.decodeError_pverr (s : State) (op : BitVec 6) (c : ErrCause) : (s.decodeError op c).pverr = s.pverr := rfl
@[simp] theorem State.decodeError_width (s : State) (op : BitVec 6) (c : ErrCause) : (s.decodeError op c).width = s.width := rfl
@[simp] theorem State.decodeError_height (s : State) (op : BitVec 6) (c : ErrCause) : (s.decodeError op c).height = s.height := rfl
@[simp] theorem State.decodeError_row (s : State) (op : BitVec 6) (c : ErrCause) : (s.decodeError op c).row = s.row := rfl
@[simp] theorem State.decodeError_inLen (s : State) (op : BitVec 6) (c : ErrCause) : (s.decodeError op c).inLen = s.inLen := rfl
@[simp] theorem State.decodeError_htDc (s : State) (op : BitVec 6) (c : ErrCause) : (s.decodeError op c).htDc = s.htDc := rfl
@[simp] theorem State.decodeError_htAc (s : State) (op : BitVec 6) (c : ErrCause) : (s.decodeError op c).htAc = s.htAc := rfl
@[simp] theorem State.decodeError_qt (s : State) (op : BitVec 6) (c : ErrCause) : (s.decodeError op c).qt = s.qt := rfl
@[simp] theorem State.decodeError_seg (s : State) (op : BitVec 6) (c : ErrCause) : (s.decodeError op c).seg = Config.freeSeg s.freeIx := rfl
@[simp] theorem State.decodeError_bitpos (s : State) (op : BitVec 6) (c : ErrCause) : (s.decodeError op c).bitpos = Config.freeBitpos s.freeIx := rfl
@[simp] theorem State.decodeError_ns (s : State) (op : BitVec 6) (c : ErrCause) : (s.decodeError op c).ns = s.ns := rfl
@[simp] theorem State.decodeError_sc (s : State) (op : BitVec 6) (c : ErrCause) : (s.decodeError op c).sc = s.sc := rfl
@[simp] theorem State.decodeError_mcucnt (s : State) (op : BitVec 6) (c : ErrCause) : (s.decodeError op c).mcucnt = Config.freeMcucnt s.freeIx := rfl
@[simp] theorem State.decodeError_mcutot (s : State) (op : BitVec 6) (c : ErrCause) : (s.decodeError op c).mcutot = s.mcutot := rfl
@[simp] theorem State.decodeError_marker (s : State) (op : BitVec 6) (c : ErrCause) : (s.decodeError op c).marker = s.marker := rfl
@[simp] theorem State.decodeError_ri (s : State) (op : BitVec 6) (c : ErrCause) : (s.decodeError op c).ri = s.ri := rfl
@[simp] theorem State.decodeError_rstnext (s : State) (op : BitVec 6) (c : ErrCause) : (s.decodeError op c).rstnext = Config.freeRstnext s.freeIx := rfl
@[simp] theorem State.decodeError_prec (s : State) (op : BitVec 6) (c : ErrCause) : (s.decodeError op c).prec = s.prec := rfl
@[simp] theorem State.decodeError_nf (s : State) (op : BitVec 6) (c : ErrCause) : (s.decodeError op c).nf = s.nf := rfl
@[simp] theorem State.decodeError_fx (s : State) (op : BitVec 6) (c : ErrCause) : (s.decodeError op c).fx = s.fx := rfl
@[simp] theorem State.decodeError_fy (s : State) (op : BitVec 6) (c : ErrCause) : (s.decodeError op c).fy = s.fy := rfl
@[simp] theorem State.decodeError_comp (s : State) (op : BitVec 6) (c : ErrCause) : (s.decodeError op c).comp = s.comp := rfl
@[simp] theorem State.decodeError_hmax (s : State) (op : BitVec 6) (c : ErrCause) : (s.decodeError op c).hmax = s.hmax := rfl
@[simp] theorem State.decodeError_vmax (s : State) (op : BitVec 6) (c : ErrCause) : (s.decodeError op c).vmax = s.vmax := rfl
@[simp] theorem State.decodeError_mcux (s : State) (op : BitVec 6) (c : ErrCause) : (s.decodeError op c).mcux = s.mcux := rfl
@[simp] theorem State.decodeError_mcuy (s : State) (op : BitVec 6) (c : ErrCause) : (s.decodeError op c).mcuy = s.mcuy := rfl
@[simp] theorem State.decodeError_geom (s : State) (op : BitVec 6) (c : ErrCause) : (s.decodeError op c).geom = s.geom := rfl
@[simp] theorem State.decodeError_inMem (s : State) (op : BitVec 6) (c : ErrCause) : (s.decodeError op c).inMem = s.inMem := rfl
@[simp] theorem State.decodeError_outMem (s : State) (op : BitVec 6) (c : ErrCause) : (s.decodeError op c).outMem = s.outMem := rfl
@[simp] theorem State.decodeError_outLen (s : State) (op : BitVec 6) (c : ErrCause) : (s.decodeError op c).outLen = s.outLen := rfl
@[simp] theorem State.decodeError_hostq (s : State) (op : BitVec 6) (c : ErrCause) : (s.decodeError op c).hostq = s.hostq := rfl
@[simp] theorem State.decodeError_rdata (s : State) (op : BitVec 6) (c : ErrCause) : (s.decodeError op c).rdata = s.rdata := rfl
@[simp] theorem State.decodeError_freeIx (s : State) (op : BitVec 6) (c : ErrCause) : (s.decodeError op c).freeIx = s.freeIx + 1 := rfl
@[simp] theorem State.decodeError_inSession (s : State) (op : BitVec 6) (c : ErrCause) : (s.decodeError op c).inSession = s.inSession := rfl

/-! Fields after `State.clearPlanes`. -/

@[simp] theorem State.clearPlanes_arg (s : State) : s.clearPlanes.arg = s.arg := rfl
@[simp] theorem State.clearPlanes_res (s : State) : s.clearPlanes.res = s.res := rfl
@[simp] theorem State.clearPlanes_result (s : State) : s.clearPlanes.result = s.result := rfl
@[simp] theorem State.clearPlanes_sess (s : State) : s.clearPlanes.sess = s.sess := rfl
@[simp] theorem State.clearPlanes_scanact (s : State) : s.clearPlanes.scanact = s.scanact := rfl
@[simp] theorem State.clearPlanes_frameset (s : State) : s.clearPlanes.frameset = s.frameset := rfl
@[simp] theorem State.clearPlanes_corder (s : State) : s.clearPlanes.corder = s.corder := rfl
@[simp] theorem State.clearPlanes_err (s : State) : s.clearPlanes.err = s.err := rfl
@[simp] theorem State.clearPlanes_pverr (s : State) : s.clearPlanes.pverr = s.pverr := rfl
@[simp] theorem State.clearPlanes_width (s : State) : s.clearPlanes.width = s.width := rfl
@[simp] theorem State.clearPlanes_height (s : State) : s.clearPlanes.height = s.height := rfl
@[simp] theorem State.clearPlanes_row (s : State) : s.clearPlanes.row = s.row := rfl
@[simp] theorem State.clearPlanes_inLen (s : State) : s.clearPlanes.inLen = s.inLen := rfl
@[simp] theorem State.clearPlanes_htDc (s : State) : s.clearPlanes.htDc = s.htDc := rfl
@[simp] theorem State.clearPlanes_htAc (s : State) : s.clearPlanes.htAc = s.htAc := rfl
@[simp] theorem State.clearPlanes_qt (s : State) : s.clearPlanes.qt = s.qt := rfl
@[simp] theorem State.clearPlanes_seg (s : State) : s.clearPlanes.seg = s.seg := rfl
@[simp] theorem State.clearPlanes_bitpos (s : State) : s.clearPlanes.bitpos = s.bitpos := rfl
@[simp] theorem State.clearPlanes_ns (s : State) : s.clearPlanes.ns = s.ns := rfl
@[simp] theorem State.clearPlanes_sc (s : State) : s.clearPlanes.sc = s.sc := rfl
@[simp] theorem State.clearPlanes_mcucnt (s : State) : s.clearPlanes.mcucnt = s.mcucnt := rfl
@[simp] theorem State.clearPlanes_mcutot (s : State) : s.clearPlanes.mcutot = s.mcutot := rfl
@[simp] theorem State.clearPlanes_marker (s : State) : s.clearPlanes.marker = s.marker := rfl
@[simp] theorem State.clearPlanes_ri (s : State) : s.clearPlanes.ri = s.ri := rfl
@[simp] theorem State.clearPlanes_rstnext (s : State) : s.clearPlanes.rstnext = s.rstnext := rfl
@[simp] theorem State.clearPlanes_pred (s : State) : s.clearPlanes.pred = s.pred := rfl
@[simp] theorem State.clearPlanes_coef (s : State) : s.clearPlanes.coef = s.coef := rfl
@[simp] theorem State.clearPlanes_dq (s : State) : s.clearPlanes.dq = s.dq := rfl
@[simp] theorem State.clearPlanes_samp (s : State) : s.clearPlanes.samp = s.samp := rfl
@[simp] theorem State.clearPlanes_prec (s : State) : s.clearPlanes.prec = s.prec := rfl
@[simp] theorem State.clearPlanes_nf (s : State) : s.clearPlanes.nf = s.nf := rfl
@[simp] theorem State.clearPlanes_fx (s : State) : s.clearPlanes.fx = s.fx := rfl
@[simp] theorem State.clearPlanes_fy (s : State) : s.clearPlanes.fy = s.fy := rfl
@[simp] theorem State.clearPlanes_comp (s : State) : s.clearPlanes.comp = s.comp := rfl
@[simp] theorem State.clearPlanes_hmax (s : State) : s.clearPlanes.hmax = s.hmax := rfl
@[simp] theorem State.clearPlanes_vmax (s : State) : s.clearPlanes.vmax = s.vmax := rfl
@[simp] theorem State.clearPlanes_mcux (s : State) : s.clearPlanes.mcux = s.mcux := rfl
@[simp] theorem State.clearPlanes_mcuy (s : State) : s.clearPlanes.mcuy = s.mcuy := rfl
@[simp] theorem State.clearPlanes_geom (s : State) : s.clearPlanes.geom = s.geom := rfl
@[simp] theorem State.clearPlanes_planes (s : State) : s.clearPlanes.planes = .all [] := rfl
@[simp] theorem State.clearPlanes_inMem (s : State) : s.clearPlanes.inMem = s.inMem := rfl
@[simp] theorem State.clearPlanes_outMem (s : State) : s.clearPlanes.outMem = s.outMem := rfl
@[simp] theorem State.clearPlanes_outLen (s : State) : s.clearPlanes.outLen = s.outLen := rfl
@[simp] theorem State.clearPlanes_hostq (s : State) : s.clearPlanes.hostq = s.hostq := rfl
@[simp] theorem State.clearPlanes_rdata (s : State) : s.clearPlanes.rdata = s.rdata := rfl
@[simp] theorem State.clearPlanes_freeIx (s : State) : s.clearPlanes.freeIx = s.freeIx := rfl
@[simp] theorem State.clearPlanes_inSession (s : State) : s.clearPlanes.inSession = s.inSession := rfl

/-! Fields after `State.atBit`. -/

@[simp] theorem State.atBit_arg (s : State) (pos : Nat) : (s.atBit pos).arg = s.arg := rfl
@[simp] theorem State.atBit_res (s : State) (pos : Nat) : (s.atBit pos).res = s.res := rfl
@[simp] theorem State.atBit_result (s : State) (pos : Nat) : (s.atBit pos).result = s.result := rfl
@[simp] theorem State.atBit_sess (s : State) (pos : Nat) : (s.atBit pos).sess = s.sess := rfl
@[simp] theorem State.atBit_scanact (s : State) (pos : Nat) : (s.atBit pos).scanact = s.scanact := rfl
@[simp] theorem State.atBit_frameset (s : State) (pos : Nat) : (s.atBit pos).frameset = s.frameset := rfl
@[simp] theorem State.atBit_corder (s : State) (pos : Nat) : (s.atBit pos).corder = s.corder := rfl
@[simp] theorem State.atBit_err (s : State) (pos : Nat) : (s.atBit pos).err = s.err := rfl
@[simp] theorem State.atBit_pverr (s : State) (pos : Nat) : (s.atBit pos).pverr = s.pverr := rfl
@[simp] theorem State.atBit_width (s : State) (pos : Nat) : (s.atBit pos).width = s.width := rfl
@[simp] theorem State.atBit_height (s : State) (pos : Nat) : (s.atBit pos).height = s.height := rfl
@[simp] theorem State.atBit_row (s : State) (pos : Nat) : (s.atBit pos).row = s.row := rfl
@[simp] theorem State.atBit_inLen (s : State) (pos : Nat) : (s.atBit pos).inLen = s.inLen := rfl
@[simp] theorem State.atBit_htDc (s : State) (pos : Nat) : (s.atBit pos).htDc = s.htDc := rfl
@[simp] theorem State.atBit_htAc (s : State) (pos : Nat) : (s.atBit pos).htAc = s.htAc := rfl
@[simp] theorem State.atBit_qt (s : State) (pos : Nat) : (s.atBit pos).qt = s.qt := rfl
@[simp] theorem State.atBit_seg (s : State) (pos : Nat) : (s.atBit pos).seg = s.seg := rfl
@[simp] theorem State.atBit_bitpos (s : State) (pos : Nat) : (s.atBit pos).bitpos = BitVec.ofNat 35 pos := rfl
@[simp] theorem State.atBit_ns (s : State) (pos : Nat) : (s.atBit pos).ns = s.ns := rfl
@[simp] theorem State.atBit_sc (s : State) (pos : Nat) : (s.atBit pos).sc = s.sc := rfl
@[simp] theorem State.atBit_mcucnt (s : State) (pos : Nat) : (s.atBit pos).mcucnt = s.mcucnt := rfl
@[simp] theorem State.atBit_mcutot (s : State) (pos : Nat) : (s.atBit pos).mcutot = s.mcutot := rfl
@[simp] theorem State.atBit_marker (s : State) (pos : Nat) : (s.atBit pos).marker = s.marker := rfl
@[simp] theorem State.atBit_ri (s : State) (pos : Nat) : (s.atBit pos).ri = s.ri := rfl
@[simp] theorem State.atBit_rstnext (s : State) (pos : Nat) : (s.atBit pos).rstnext = s.rstnext := rfl
@[simp] theorem State.atBit_pred (s : State) (pos : Nat) : (s.atBit pos).pred = s.pred := rfl
@[simp] theorem State.atBit_coef (s : State) (pos : Nat) : (s.atBit pos).coef = s.coef := rfl
@[simp] theorem State.atBit_dq (s : State) (pos : Nat) : (s.atBit pos).dq = s.dq := rfl
@[simp] theorem State.atBit_samp (s : State) (pos : Nat) : (s.atBit pos).samp = s.samp := rfl
@[simp] theorem State.atBit_prec (s : State) (pos : Nat) : (s.atBit pos).prec = s.prec := rfl
@[simp] theorem State.atBit_nf (s : State) (pos : Nat) : (s.atBit pos).nf = s.nf := rfl
@[simp] theorem State.atBit_fx (s : State) (pos : Nat) : (s.atBit pos).fx = s.fx := rfl
@[simp] theorem State.atBit_fy (s : State) (pos : Nat) : (s.atBit pos).fy = s.fy := rfl
@[simp] theorem State.atBit_comp (s : State) (pos : Nat) : (s.atBit pos).comp = s.comp := rfl
@[simp] theorem State.atBit_hmax (s : State) (pos : Nat) : (s.atBit pos).hmax = s.hmax := rfl
@[simp] theorem State.atBit_vmax (s : State) (pos : Nat) : (s.atBit pos).vmax = s.vmax := rfl
@[simp] theorem State.atBit_mcux (s : State) (pos : Nat) : (s.atBit pos).mcux = s.mcux := rfl
@[simp] theorem State.atBit_mcuy (s : State) (pos : Nat) : (s.atBit pos).mcuy = s.mcuy := rfl
@[simp] theorem State.atBit_geom (s : State) (pos : Nat) : (s.atBit pos).geom = s.geom := rfl
@[simp] theorem State.atBit_planes (s : State) (pos : Nat) : (s.atBit pos).planes = s.planes := rfl
@[simp] theorem State.atBit_inMem (s : State) (pos : Nat) : (s.atBit pos).inMem = s.inMem := rfl
@[simp] theorem State.atBit_outMem (s : State) (pos : Nat) : (s.atBit pos).outMem = s.outMem := rfl
@[simp] theorem State.atBit_outLen (s : State) (pos : Nat) : (s.atBit pos).outLen = s.outLen := rfl
@[simp] theorem State.atBit_hostq (s : State) (pos : Nat) : (s.atBit pos).hostq = s.hostq := rfl
@[simp] theorem State.atBit_rdata (s : State) (pos : Nat) : (s.atBit pos).rdata = s.rdata := rfl
@[simp] theorem State.atBit_freeIx (s : State) (pos : Nat) : (s.atBit pos).freeIx = s.freeIx := rfl
@[simp] theorem State.atBit_inSession (s : State) (pos : Nat) : (s.atBit pos).inSession = s.inSession := rfl

/-! Fields after `State.resetBlock`. -/

@[simp] theorem State.resetBlock_arg (s : State) : s.resetBlock.arg = State.reset.arg := rfl
@[simp] theorem State.resetBlock_res (s : State) : s.resetBlock.res = State.reset.res := rfl
@[simp] theorem State.resetBlock_result (s : State) : s.resetBlock.result = State.reset.result := rfl
@[simp] theorem State.resetBlock_sess (s : State) : s.resetBlock.sess = State.reset.sess := rfl
@[simp] theorem State.resetBlock_scanact (s : State) : s.resetBlock.scanact = State.reset.scanact := rfl
@[simp] theorem State.resetBlock_frameset (s : State) : s.resetBlock.frameset = State.reset.frameset := rfl
@[simp] theorem State.resetBlock_corder (s : State) : s.resetBlock.corder = State.reset.corder := rfl
@[simp] theorem State.resetBlock_err (s : State) : s.resetBlock.err = State.reset.err := rfl
@[simp] theorem State.resetBlock_pverr (s : State) : s.resetBlock.pverr = State.reset.pverr := rfl
@[simp] theorem State.resetBlock_width (s : State) : s.resetBlock.width = State.reset.width := rfl
@[simp] theorem State.resetBlock_height (s : State) : s.resetBlock.height = State.reset.height := rfl
@[simp] theorem State.resetBlock_row (s : State) : s.resetBlock.row = State.reset.row := rfl
@[simp] theorem State.resetBlock_inLen (s : State) : s.resetBlock.inLen = State.reset.inLen := rfl
@[simp] theorem State.resetBlock_htDc (s : State) : s.resetBlock.htDc = State.reset.htDc := rfl
@[simp] theorem State.resetBlock_htAc (s : State) : s.resetBlock.htAc = State.reset.htAc := rfl
@[simp] theorem State.resetBlock_qt (s : State) : s.resetBlock.qt = State.reset.qt := rfl
@[simp] theorem State.resetBlock_seg (s : State) : s.resetBlock.seg = State.reset.seg := rfl
@[simp] theorem State.resetBlock_bitpos (s : State) : s.resetBlock.bitpos = State.reset.bitpos := rfl
@[simp] theorem State.resetBlock_ns (s : State) : s.resetBlock.ns = State.reset.ns := rfl
@[simp] theorem State.resetBlock_sc (s : State) : s.resetBlock.sc = State.reset.sc := rfl
@[simp] theorem State.resetBlock_mcucnt (s : State) : s.resetBlock.mcucnt = State.reset.mcucnt := rfl
@[simp] theorem State.resetBlock_mcutot (s : State) : s.resetBlock.mcutot = State.reset.mcutot := rfl
@[simp] theorem State.resetBlock_marker (s : State) : s.resetBlock.marker = State.reset.marker := rfl
@[simp] theorem State.resetBlock_ri (s : State) : s.resetBlock.ri = State.reset.ri := rfl
@[simp] theorem State.resetBlock_rstnext (s : State) : s.resetBlock.rstnext = State.reset.rstnext := rfl
@[simp] theorem State.resetBlock_pred (s : State) : s.resetBlock.pred = State.reset.pred := rfl
@[simp] theorem State.resetBlock_coef (s : State) : s.resetBlock.coef = State.reset.coef := rfl
@[simp] theorem State.resetBlock_dq (s : State) : s.resetBlock.dq = State.reset.dq := rfl
@[simp] theorem State.resetBlock_samp (s : State) : s.resetBlock.samp = State.reset.samp := rfl
@[simp] theorem State.resetBlock_prec (s : State) : s.resetBlock.prec = State.reset.prec := rfl
@[simp] theorem State.resetBlock_nf (s : State) : s.resetBlock.nf = State.reset.nf := rfl
@[simp] theorem State.resetBlock_fx (s : State) : s.resetBlock.fx = State.reset.fx := rfl
@[simp] theorem State.resetBlock_fy (s : State) : s.resetBlock.fy = State.reset.fy := rfl
@[simp] theorem State.resetBlock_comp (s : State) : s.resetBlock.comp = State.reset.comp := rfl
@[simp] theorem State.resetBlock_hmax (s : State) : s.resetBlock.hmax = State.reset.hmax := rfl
@[simp] theorem State.resetBlock_vmax (s : State) : s.resetBlock.vmax = State.reset.vmax := rfl
@[simp] theorem State.resetBlock_mcux (s : State) : s.resetBlock.mcux = State.reset.mcux := rfl
@[simp] theorem State.resetBlock_mcuy (s : State) : s.resetBlock.mcuy = State.reset.mcuy := rfl
@[simp] theorem State.resetBlock_geom (s : State) : s.resetBlock.geom = State.reset.geom := rfl
@[simp] theorem State.resetBlock_planes (s : State) : s.resetBlock.planes = State.reset.planes := rfl
@[simp] theorem State.resetBlock_inMem (s : State) : s.resetBlock.inMem = s.inMem := rfl
@[simp] theorem State.resetBlock_outMem (s : State) : s.resetBlock.outMem = s.outMem := rfl
@[simp] theorem State.resetBlock_outLen (s : State) : s.resetBlock.outLen = s.outLen := rfl
@[simp] theorem State.resetBlock_hostq (s : State) : s.resetBlock.hostq = s.hostq := rfl
@[simp] theorem State.resetBlock_rdata (s : State) : s.resetBlock.rdata = s.rdata := rfl
@[simp] theorem State.resetBlock_freeIx (s : State) : s.resetBlock.freeIx = s.freeIx := rfl
@[simp] theorem State.resetBlock_inSession (s : State) : s.resetBlock.inSession = State.reset.inSession := rfl

/-! Fields after `State.storeBlock`. -/

@[simp] theorem State.storeBlock_arg (s : State) (b : McuBlock) : (s.storeBlock b).arg = s.arg := by dsimp only [State.storeBlock]
@[simp] theorem State.storeBlock_res (s : State) (b : McuBlock) : (s.storeBlock b).res = s.res := by dsimp only [State.storeBlock]
@[simp] theorem State.storeBlock_result (s : State) (b : McuBlock) : (s.storeBlock b).result = s.result := by dsimp only [State.storeBlock]
@[simp] theorem State.storeBlock_sess (s : State) (b : McuBlock) : (s.storeBlock b).sess = s.sess := by dsimp only [State.storeBlock]
@[simp] theorem State.storeBlock_scanact (s : State) (b : McuBlock) : (s.storeBlock b).scanact = s.scanact := by dsimp only [State.storeBlock]
@[simp] theorem State.storeBlock_frameset (s : State) (b : McuBlock) : (s.storeBlock b).frameset = s.frameset := by dsimp only [State.storeBlock]
@[simp] theorem State.storeBlock_corder (s : State) (b : McuBlock) : (s.storeBlock b).corder = s.corder := by dsimp only [State.storeBlock]
@[simp] theorem State.storeBlock_err (s : State) (b : McuBlock) : (s.storeBlock b).err = s.err := by dsimp only [State.storeBlock]
@[simp] theorem State.storeBlock_pverr (s : State) (b : McuBlock) : (s.storeBlock b).pverr = s.pverr := by dsimp only [State.storeBlock]
@[simp] theorem State.storeBlock_width (s : State) (b : McuBlock) : (s.storeBlock b).width = s.width := by dsimp only [State.storeBlock]
@[simp] theorem State.storeBlock_height (s : State) (b : McuBlock) : (s.storeBlock b).height = s.height := by dsimp only [State.storeBlock]
@[simp] theorem State.storeBlock_row (s : State) (b : McuBlock) : (s.storeBlock b).row = s.row := by dsimp only [State.storeBlock]
@[simp] theorem State.storeBlock_inLen (s : State) (b : McuBlock) : (s.storeBlock b).inLen = s.inLen := by dsimp only [State.storeBlock]
@[simp] theorem State.storeBlock_htDc (s : State) (b : McuBlock) : (s.storeBlock b).htDc = s.htDc := by dsimp only [State.storeBlock]
@[simp] theorem State.storeBlock_htAc (s : State) (b : McuBlock) : (s.storeBlock b).htAc = s.htAc := by dsimp only [State.storeBlock]
@[simp] theorem State.storeBlock_qt (s : State) (b : McuBlock) : (s.storeBlock b).qt = s.qt := by dsimp only [State.storeBlock]
@[simp] theorem State.storeBlock_seg (s : State) (b : McuBlock) : (s.storeBlock b).seg = s.seg := by dsimp only [State.storeBlock]
@[simp] theorem State.storeBlock_bitpos (s : State) (b : McuBlock) : (s.storeBlock b).bitpos = s.bitpos := by dsimp only [State.storeBlock]
@[simp] theorem State.storeBlock_ns (s : State) (b : McuBlock) : (s.storeBlock b).ns = s.ns := by dsimp only [State.storeBlock]
@[simp] theorem State.storeBlock_sc (s : State) (b : McuBlock) : (s.storeBlock b).sc = s.sc := by dsimp only [State.storeBlock]
@[simp] theorem State.storeBlock_mcucnt (s : State) (b : McuBlock) : (s.storeBlock b).mcucnt = s.mcucnt := by dsimp only [State.storeBlock]
@[simp] theorem State.storeBlock_mcutot (s : State) (b : McuBlock) : (s.storeBlock b).mcutot = s.mcutot := by dsimp only [State.storeBlock]
@[simp] theorem State.storeBlock_marker (s : State) (b : McuBlock) : (s.storeBlock b).marker = s.marker := by dsimp only [State.storeBlock]
@[simp] theorem State.storeBlock_ri (s : State) (b : McuBlock) : (s.storeBlock b).ri = s.ri := by dsimp only [State.storeBlock]
@[simp] theorem State.storeBlock_rstnext (s : State) (b : McuBlock) : (s.storeBlock b).rstnext = s.rstnext := by dsimp only [State.storeBlock]
@[simp] theorem State.storeBlock_pred (s : State) (b : McuBlock) : (s.storeBlock b).pred = s.pred := by dsimp only [State.storeBlock]
@[simp] theorem State.storeBlock_coef (s : State) (b : McuBlock) : (s.storeBlock b).coef = s.coef := by dsimp only [State.storeBlock]
@[simp] theorem State.storeBlock_prec (s : State) (b : McuBlock) : (s.storeBlock b).prec = s.prec := by dsimp only [State.storeBlock]
@[simp] theorem State.storeBlock_nf (s : State) (b : McuBlock) : (s.storeBlock b).nf = s.nf := by dsimp only [State.storeBlock]
@[simp] theorem State.storeBlock_fx (s : State) (b : McuBlock) : (s.storeBlock b).fx = s.fx := by dsimp only [State.storeBlock]
@[simp] theorem State.storeBlock_fy (s : State) (b : McuBlock) : (s.storeBlock b).fy = s.fy := by dsimp only [State.storeBlock]
@[simp] theorem State.storeBlock_comp (s : State) (b : McuBlock) : (s.storeBlock b).comp = s.comp := by dsimp only [State.storeBlock]
@[simp] theorem State.storeBlock_hmax (s : State) (b : McuBlock) : (s.storeBlock b).hmax = s.hmax := by dsimp only [State.storeBlock]
@[simp] theorem State.storeBlock_vmax (s : State) (b : McuBlock) : (s.storeBlock b).vmax = s.vmax := by dsimp only [State.storeBlock]
@[simp] theorem State.storeBlock_mcux (s : State) (b : McuBlock) : (s.storeBlock b).mcux = s.mcux := by dsimp only [State.storeBlock]
@[simp] theorem State.storeBlock_mcuy (s : State) (b : McuBlock) : (s.storeBlock b).mcuy = s.mcuy := by dsimp only [State.storeBlock]
@[simp] theorem State.storeBlock_geom (s : State) (b : McuBlock) : (s.storeBlock b).geom = s.geom := by dsimp only [State.storeBlock]
@[simp] theorem State.storeBlock_inMem (s : State) (b : McuBlock) : (s.storeBlock b).inMem = s.inMem := by dsimp only [State.storeBlock]
@[simp] theorem State.storeBlock_outMem (s : State) (b : McuBlock) : (s.storeBlock b).outMem = s.outMem := by dsimp only [State.storeBlock]
@[simp] theorem State.storeBlock_outLen (s : State) (b : McuBlock) : (s.storeBlock b).outLen = s.outLen := by dsimp only [State.storeBlock]
@[simp] theorem State.storeBlock_hostq (s : State) (b : McuBlock) : (s.storeBlock b).hostq = s.hostq := by dsimp only [State.storeBlock]
@[simp] theorem State.storeBlock_rdata (s : State) (b : McuBlock) : (s.storeBlock b).rdata = s.rdata := by dsimp only [State.storeBlock]
@[simp] theorem State.storeBlock_freeIx (s : State) (b : McuBlock) : (s.storeBlock b).freeIx = s.freeIx := by dsimp only [State.storeBlock]
@[simp] theorem State.storeBlock_inSession (s : State) (b : McuBlock) : (s.storeBlock b).inSession = s.inSession := by dsimp only [State.storeBlock]

/-! Fields after `State.withGeometry`. -/

@[simp] theorem State.withGeometry_arg (s : State) : s.withGeometry.arg = s.arg := by dsimp only [State.withGeometry]
@[simp] theorem State.withGeometry_res (s : State) : s.withGeometry.res = s.res := by dsimp only [State.withGeometry]
@[simp] theorem State.withGeometry_result (s : State) : s.withGeometry.result = s.result := by dsimp only [State.withGeometry]
@[simp] theorem State.withGeometry_sess (s : State) : s.withGeometry.sess = s.sess := by dsimp only [State.withGeometry]
@[simp] theorem State.withGeometry_scanact (s : State) : s.withGeometry.scanact = s.scanact := by dsimp only [State.withGeometry]
@[simp] theorem State.withGeometry_frameset (s : State) : s.withGeometry.frameset = s.frameset := by dsimp only [State.withGeometry]
@[simp] theorem State.withGeometry_corder (s : State) : s.withGeometry.corder = s.corder := by dsimp only [State.withGeometry]
@[simp] theorem State.withGeometry_err (s : State) : s.withGeometry.err = s.err := by dsimp only [State.withGeometry]
@[simp] theorem State.withGeometry_pverr (s : State) : s.withGeometry.pverr = s.pverr := by dsimp only [State.withGeometry]
@[simp] theorem State.withGeometry_width (s : State) : s.withGeometry.width = s.width := by dsimp only [State.withGeometry]
@[simp] theorem State.withGeometry_height (s : State) : s.withGeometry.height = s.height := by dsimp only [State.withGeometry]
@[simp] theorem State.withGeometry_row (s : State) : s.withGeometry.row = s.row := by dsimp only [State.withGeometry]
@[simp] theorem State.withGeometry_inLen (s : State) : s.withGeometry.inLen = s.inLen := by dsimp only [State.withGeometry]
@[simp] theorem State.withGeometry_htDc (s : State) : s.withGeometry.htDc = s.htDc := by dsimp only [State.withGeometry]
@[simp] theorem State.withGeometry_htAc (s : State) : s.withGeometry.htAc = s.htAc := by dsimp only [State.withGeometry]
@[simp] theorem State.withGeometry_qt (s : State) : s.withGeometry.qt = s.qt := by dsimp only [State.withGeometry]
@[simp] theorem State.withGeometry_seg (s : State) : s.withGeometry.seg = s.seg := by dsimp only [State.withGeometry]
@[simp] theorem State.withGeometry_bitpos (s : State) : s.withGeometry.bitpos = s.bitpos := by dsimp only [State.withGeometry]
@[simp] theorem State.withGeometry_ns (s : State) : s.withGeometry.ns = s.ns := by dsimp only [State.withGeometry]
@[simp] theorem State.withGeometry_sc (s : State) : s.withGeometry.sc = s.sc := by dsimp only [State.withGeometry]
@[simp] theorem State.withGeometry_mcucnt (s : State) : s.withGeometry.mcucnt = s.mcucnt := by dsimp only [State.withGeometry]
@[simp] theorem State.withGeometry_mcutot (s : State) : s.withGeometry.mcutot = s.mcutot := by dsimp only [State.withGeometry]
@[simp] theorem State.withGeometry_marker (s : State) : s.withGeometry.marker = s.marker := by dsimp only [State.withGeometry]
@[simp] theorem State.withGeometry_ri (s : State) : s.withGeometry.ri = s.ri := by dsimp only [State.withGeometry]
@[simp] theorem State.withGeometry_rstnext (s : State) : s.withGeometry.rstnext = s.rstnext := by dsimp only [State.withGeometry]
@[simp] theorem State.withGeometry_pred (s : State) : s.withGeometry.pred = s.pred := by dsimp only [State.withGeometry]
@[simp] theorem State.withGeometry_coef (s : State) : s.withGeometry.coef = s.coef := by dsimp only [State.withGeometry]
@[simp] theorem State.withGeometry_dq (s : State) : s.withGeometry.dq = s.dq := by dsimp only [State.withGeometry]
@[simp] theorem State.withGeometry_samp (s : State) : s.withGeometry.samp = s.samp := by dsimp only [State.withGeometry]
@[simp] theorem State.withGeometry_prec (s : State) : s.withGeometry.prec = s.prec := by dsimp only [State.withGeometry]
@[simp] theorem State.withGeometry_nf (s : State) : s.withGeometry.nf = s.nf := by dsimp only [State.withGeometry]
@[simp] theorem State.withGeometry_fx (s : State) : s.withGeometry.fx = s.fx := by dsimp only [State.withGeometry]
@[simp] theorem State.withGeometry_fy (s : State) : s.withGeometry.fy = s.fy := by dsimp only [State.withGeometry]
@[simp] theorem State.withGeometry_comp (s : State) : s.withGeometry.comp = s.comp := by dsimp only [State.withGeometry]
@[simp] theorem State.withGeometry_planes (s : State) : s.withGeometry.planes = s.planes := by dsimp only [State.withGeometry]
@[simp] theorem State.withGeometry_inMem (s : State) : s.withGeometry.inMem = s.inMem := by dsimp only [State.withGeometry]
@[simp] theorem State.withGeometry_outMem (s : State) : s.withGeometry.outMem = s.outMem := by dsimp only [State.withGeometry]
@[simp] theorem State.withGeometry_outLen (s : State) : s.withGeometry.outLen = s.outLen := by dsimp only [State.withGeometry]
@[simp] theorem State.withGeometry_hostq (s : State) : s.withGeometry.hostq = s.hostq := by dsimp only [State.withGeometry]
@[simp] theorem State.withGeometry_rdata (s : State) : s.withGeometry.rdata = s.rdata := by dsimp only [State.withGeometry]
@[simp] theorem State.withGeometry_freeIx (s : State) : s.withGeometry.freeIx = s.freeIx := by dsimp only [State.withGeometry]
@[simp] theorem State.withGeometry_inSession (s : State) : s.withGeometry.inSession = s.inSession := by dsimp only [State.withGeometry]

/-! Fields after `State.setHt`. -/

@[simp] theorem State.setHt_arg (s : State) (tc : BitVec 1) (th : BitVec 2) (t : HuffTable) : (s.setHt tc th t).arg = s.arg := by
  unfold State.setHt; split <;> rfl
@[simp] theorem State.setHt_res (s : State) (tc : BitVec 1) (th : BitVec 2) (t : HuffTable) : (s.setHt tc th t).res = s.res := by
  unfold State.setHt; split <;> rfl
@[simp] theorem State.setHt_result (s : State) (tc : BitVec 1) (th : BitVec 2) (t : HuffTable) : (s.setHt tc th t).result = s.result := by
  unfold State.setHt; split <;> rfl
@[simp] theorem State.setHt_sess (s : State) (tc : BitVec 1) (th : BitVec 2) (t : HuffTable) : (s.setHt tc th t).sess = s.sess := by
  unfold State.setHt; split <;> rfl
@[simp] theorem State.setHt_scanact (s : State) (tc : BitVec 1) (th : BitVec 2) (t : HuffTable) : (s.setHt tc th t).scanact = s.scanact := by
  unfold State.setHt; split <;> rfl
@[simp] theorem State.setHt_frameset (s : State) (tc : BitVec 1) (th : BitVec 2) (t : HuffTable) : (s.setHt tc th t).frameset = s.frameset := by
  unfold State.setHt; split <;> rfl
@[simp] theorem State.setHt_corder (s : State) (tc : BitVec 1) (th : BitVec 2) (t : HuffTable) : (s.setHt tc th t).corder = s.corder := by
  unfold State.setHt; split <;> rfl
@[simp] theorem State.setHt_err (s : State) (tc : BitVec 1) (th : BitVec 2) (t : HuffTable) : (s.setHt tc th t).err = s.err := by
  unfold State.setHt; split <;> rfl
@[simp] theorem State.setHt_pverr (s : State) (tc : BitVec 1) (th : BitVec 2) (t : HuffTable) : (s.setHt tc th t).pverr = s.pverr := by
  unfold State.setHt; split <;> rfl
@[simp] theorem State.setHt_width (s : State) (tc : BitVec 1) (th : BitVec 2) (t : HuffTable) : (s.setHt tc th t).width = s.width := by
  unfold State.setHt; split <;> rfl
@[simp] theorem State.setHt_height (s : State) (tc : BitVec 1) (th : BitVec 2) (t : HuffTable) : (s.setHt tc th t).height = s.height := by
  unfold State.setHt; split <;> rfl
@[simp] theorem State.setHt_row (s : State) (tc : BitVec 1) (th : BitVec 2) (t : HuffTable) : (s.setHt tc th t).row = s.row := by
  unfold State.setHt; split <;> rfl
@[simp] theorem State.setHt_inLen (s : State) (tc : BitVec 1) (th : BitVec 2) (t : HuffTable) : (s.setHt tc th t).inLen = s.inLen := by
  unfold State.setHt; split <;> rfl
@[simp] theorem State.setHt_qt (s : State) (tc : BitVec 1) (th : BitVec 2) (t : HuffTable) : (s.setHt tc th t).qt = s.qt := by
  unfold State.setHt; split <;> rfl
@[simp] theorem State.setHt_seg (s : State) (tc : BitVec 1) (th : BitVec 2) (t : HuffTable) : (s.setHt tc th t).seg = s.seg := by
  unfold State.setHt; split <;> rfl
@[simp] theorem State.setHt_bitpos (s : State) (tc : BitVec 1) (th : BitVec 2) (t : HuffTable) : (s.setHt tc th t).bitpos = s.bitpos := by
  unfold State.setHt; split <;> rfl
@[simp] theorem State.setHt_ns (s : State) (tc : BitVec 1) (th : BitVec 2) (t : HuffTable) : (s.setHt tc th t).ns = s.ns := by
  unfold State.setHt; split <;> rfl
@[simp] theorem State.setHt_sc (s : State) (tc : BitVec 1) (th : BitVec 2) (t : HuffTable) : (s.setHt tc th t).sc = s.sc := by
  unfold State.setHt; split <;> rfl
@[simp] theorem State.setHt_mcucnt (s : State) (tc : BitVec 1) (th : BitVec 2) (t : HuffTable) : (s.setHt tc th t).mcucnt = s.mcucnt := by
  unfold State.setHt; split <;> rfl
@[simp] theorem State.setHt_mcutot (s : State) (tc : BitVec 1) (th : BitVec 2) (t : HuffTable) : (s.setHt tc th t).mcutot = s.mcutot := by
  unfold State.setHt; split <;> rfl
@[simp] theorem State.setHt_marker (s : State) (tc : BitVec 1) (th : BitVec 2) (t : HuffTable) : (s.setHt tc th t).marker = s.marker := by
  unfold State.setHt; split <;> rfl
@[simp] theorem State.setHt_ri (s : State) (tc : BitVec 1) (th : BitVec 2) (t : HuffTable) : (s.setHt tc th t).ri = s.ri := by
  unfold State.setHt; split <;> rfl
@[simp] theorem State.setHt_rstnext (s : State) (tc : BitVec 1) (th : BitVec 2) (t : HuffTable) : (s.setHt tc th t).rstnext = s.rstnext := by
  unfold State.setHt; split <;> rfl
@[simp] theorem State.setHt_pred (s : State) (tc : BitVec 1) (th : BitVec 2) (t : HuffTable) : (s.setHt tc th t).pred = s.pred := by
  unfold State.setHt; split <;> rfl
@[simp] theorem State.setHt_coef (s : State) (tc : BitVec 1) (th : BitVec 2) (t : HuffTable) : (s.setHt tc th t).coef = s.coef := by
  unfold State.setHt; split <;> rfl
@[simp] theorem State.setHt_dq (s : State) (tc : BitVec 1) (th : BitVec 2) (t : HuffTable) : (s.setHt tc th t).dq = s.dq := by
  unfold State.setHt; split <;> rfl
@[simp] theorem State.setHt_samp (s : State) (tc : BitVec 1) (th : BitVec 2) (t : HuffTable) : (s.setHt tc th t).samp = s.samp := by
  unfold State.setHt; split <;> rfl
@[simp] theorem State.setHt_prec (s : State) (tc : BitVec 1) (th : BitVec 2) (t : HuffTable) : (s.setHt tc th t).prec = s.prec := by
  unfold State.setHt; split <;> rfl
@[simp] theorem State.setHt_nf (s : State) (tc : BitVec 1) (th : BitVec 2) (t : HuffTable) : (s.setHt tc th t).nf = s.nf := by
  unfold State.setHt; split <;> rfl
@[simp] theorem State.setHt_fx (s : State) (tc : BitVec 1) (th : BitVec 2) (t : HuffTable) : (s.setHt tc th t).fx = s.fx := by
  unfold State.setHt; split <;> rfl
@[simp] theorem State.setHt_fy (s : State) (tc : BitVec 1) (th : BitVec 2) (t : HuffTable) : (s.setHt tc th t).fy = s.fy := by
  unfold State.setHt; split <;> rfl
@[simp] theorem State.setHt_comp (s : State) (tc : BitVec 1) (th : BitVec 2) (t : HuffTable) : (s.setHt tc th t).comp = s.comp := by
  unfold State.setHt; split <;> rfl
@[simp] theorem State.setHt_hmax (s : State) (tc : BitVec 1) (th : BitVec 2) (t : HuffTable) : (s.setHt tc th t).hmax = s.hmax := by
  unfold State.setHt; split <;> rfl
@[simp] theorem State.setHt_vmax (s : State) (tc : BitVec 1) (th : BitVec 2) (t : HuffTable) : (s.setHt tc th t).vmax = s.vmax := by
  unfold State.setHt; split <;> rfl
@[simp] theorem State.setHt_mcux (s : State) (tc : BitVec 1) (th : BitVec 2) (t : HuffTable) : (s.setHt tc th t).mcux = s.mcux := by
  unfold State.setHt; split <;> rfl
@[simp] theorem State.setHt_mcuy (s : State) (tc : BitVec 1) (th : BitVec 2) (t : HuffTable) : (s.setHt tc th t).mcuy = s.mcuy := by
  unfold State.setHt; split <;> rfl
@[simp] theorem State.setHt_geom (s : State) (tc : BitVec 1) (th : BitVec 2) (t : HuffTable) : (s.setHt tc th t).geom = s.geom := by
  unfold State.setHt; split <;> rfl
@[simp] theorem State.setHt_planes (s : State) (tc : BitVec 1) (th : BitVec 2) (t : HuffTable) : (s.setHt tc th t).planes = s.planes := by
  unfold State.setHt; split <;> rfl
@[simp] theorem State.setHt_inMem (s : State) (tc : BitVec 1) (th : BitVec 2) (t : HuffTable) : (s.setHt tc th t).inMem = s.inMem := by
  unfold State.setHt; split <;> rfl
@[simp] theorem State.setHt_outMem (s : State) (tc : BitVec 1) (th : BitVec 2) (t : HuffTable) : (s.setHt tc th t).outMem = s.outMem := by
  unfold State.setHt; split <;> rfl
@[simp] theorem State.setHt_outLen (s : State) (tc : BitVec 1) (th : BitVec 2) (t : HuffTable) : (s.setHt tc th t).outLen = s.outLen := by
  unfold State.setHt; split <;> rfl
@[simp] theorem State.setHt_hostq (s : State) (tc : BitVec 1) (th : BitVec 2) (t : HuffTable) : (s.setHt tc th t).hostq = s.hostq := by
  unfold State.setHt; split <;> rfl
@[simp] theorem State.setHt_rdata (s : State) (tc : BitVec 1) (th : BitVec 2) (t : HuffTable) : (s.setHt tc th t).rdata = s.rdata := by
  unfold State.setHt; split <;> rfl
@[simp] theorem State.setHt_freeIx (s : State) (tc : BitVec 1) (th : BitVec 2) (t : HuffTable) : (s.setHt tc th t).freeIx = s.freeIx := by
  unfold State.setHt; split <;> rfl
@[simp] theorem State.setHt_inSession (s : State) (tc : BitVec 1) (th : BitVec 2) (t : HuffTable) : (s.setHt tc th t).inSession = s.inSession := by
  unfold State.setHt; split <;> rfl

/-! Tri and Quad: reading what was set, and the rest as it was. -/

@[simp] theorem Tri.get_set_same {α : Type} (t : Tri α) (c : Nat) (a : α) : (t.set c a).get c = a := by
  match c with
  | 0 => rfl
  | 1 => rfl
  | _ + 2 => rfl

theorem Tri.get_set_other {α : Type} (t : Tri α) {c d : Nat} (a : α) (hc : c < 3) (hd : d < 3) (h : d ≠ c) :
    (t.set c a).get d = t.get d := by
  interval_cases c <;> interval_cases d <;> first | rfl | exact absurd rfl h

@[simp] theorem Quad.get_set_same {α : Type} (t : Quad α) (i : Nat) (a : α) : (t.set i a).get i = a := by
  match i with
  | 0 => rfl
  | 1 => rfl
  | 2 => rfl
  | _ + 3 => rfl

theorem Quad.get_set_other {α : Type} (t : Quad α) {i j : Nat} (a : α) (hi : i < 4) (hj : j < 4) (h : j ≠ i) :
    (t.set i a).get j = t.get j := by
  interval_cases i <;> interval_cases j <;> first | rfl | exact absurd rfl h

@[simp] theorem Tri.get_all {α : Type} (a : α) (c : Nat) : (Tri.all a).get c = a := by
  unfold Tri.get Tri.all; split <;> rfl

@[simp] theorem Quad.get_all {α : Type} (a : α) (i : Nat) : (Quad.all a).get i = a := by
  unfold Quad.get Quad.all; split <;> rfl

end Sys2Proof.Machine
end

