-- ==== Sys2Proof/Laws/Ops.lean ====
section
/-! SUPPORT. What each shared operation can do, said once: the end of a command, its guards, the state check, and the inversion of `exec`. -/

namespace Sys2Proof.Machine

@[simp] theorem require_true {p : Prop} [Decidable p] (e : Raise) (h : p) : require p e = .ok () := if_pos h

@[simp] theorem require_false {p : Prop} [Decidable p] (e : Raise) (h : ¬ p) : require p e = .error e := if_neg h

theorem require_eq_ok {p : Prop} [Decidable p] {e : Raise} {u : Unit} : require p e = .ok u ↔ p := by
  unfold require; split <;> simp [*]

@[simp] theorem except_ok_bind {ε α β : Type} (a : α) (f : α → Except ε β) : (Except.ok a >>= f) = f a := rfl

@[simp] theorem except_error_bind {ε α β : Type} (e : ε) (f : α → Except ε β) : (Except.error e >>= f) = .error e := rfl

/-- Peel the first action of a command off: it succeeded and the rest ran. -/
theorem except_bind_eq_ok {ε α β : Type} {x : Except ε α} {f : α → Except ε β} {b : β} :
    (x >>= f) = .ok b ↔ ∃ a, x = .ok a ∧ f a = .ok b := by
  cases x <;> simp

/-- Peel a guard off. -/
theorem require_bind_eq_ok {p : Prop} [Decidable p] {e : Raise} {β : Type} {f : Unit → Except Raise β} {b : β} :
    (require p e >>= f) = .ok b ↔ p ∧ f () = .ok b := by
  unfold require; split <;> simp [*]

@[simp] theorem complete_ok (op : BitVec 6) (s t : State) : complete op s (.ok t) = .next { t with result := .ok } := rfl

@[simp] theorem complete_decodeError (op : BitVec 6) (s : State) (c : ErrCause) :
    complete op s (.error (.decodeError c)) = .next (s.decodeError op c) := rfl

@[simp] theorem complete_precond (op : BitVec 6) (s : State) (c : PvCause) :
    complete op s (.error (.precond c)) = .next (s.refuse op c) := rfl

/-- Everything the end of a command can be (R313): OK with what it did, R321, or R322. -/
theorem complete_cases {op : BitVec 6} {s t : State} {r : Except Raise State} (h : complete op s r = .next t) :
    (∃ u, r = .ok u ∧ t = { u with result := .ok }) ∨
    (∃ c, r = .error (.decodeError c) ∧ t = s.decodeError op c) ∨
    (∃ c, r = .error (.precond c) ∧ t = s.refuse op c) := by
  match r, h with
  | .ok u, h => exact .inl ⟨u, rfl, (Host.Outcome.next.inj h).symm⟩
  | .error (.decodeError c), h => exact .inr (.inl ⟨c, rfl, (Host.Outcome.next.inj h).symm⟩)
  | .error (.precond c), h => exact .inr (.inr ⟨c, rfl, (Host.Outcome.next.inj h).symm⟩)

/-- A command always answers a next state. -/
theorem complete_next (op : BitVec 6) (s : State) (r : Except Raise State) : ∃ t, complete op s r = .next t := by
  match r with
  | .ok u => exact ⟨_, rfl⟩
  | .error (.decodeError c) => exact ⟨_, rfl⟩
  | .error (.precond c) => exact ⟨_, rfl⟩

/-- The three ends of a command are told apart by RESULT. -/
theorem complete_result {op : BitVec 6} {s t : State} {r : Except Raise State} (h : complete op s r = .next t) :
    (t.result = .ok ∧ ∃ u, r = .ok u ∧ t = { u with result := .ok }) ∨
    (t.result = .error ∧ ∃ c, t = s.decodeError op c) ∨
    (t.result = .precond ∧ ∃ c, t = s.refuse op c) := by
  rcases complete_cases h with ⟨u, hr, rfl⟩ | ⟨c, -, rfl⟩ | ⟨c, -, rfl⟩
  · exact .inl ⟨rfl, u, hr, rfl⟩
  · exact .inr (.inl ⟨rfl, c, rfl⟩)
  · exact .inr (.inr ⟨rfl, c, rfl⟩)

/-- Every arm of `exec` is the end of a command with that command's opcode. -/
theorem exec_complete (i : Instr) (s : State) : ∃ r, exec i s = complete i.op s r := by
  cases i
  case sreset => exact ⟨.ok { s.resetBlock with arg := s.arg }, rfl⟩
  case abort =>
    simp only [exec, execAbort]
    exact ⟨_, rfl⟩
  case ccPix =>
    simp only [exec, execCcPix]
    exact ⟨_, rfl⟩
  all_goals exact ⟨_, rfl⟩

theorem stateCheck_eq_ok {a : Allowed} {s : State} {u : Unit} :
    stateCheck a s = .ok u ↔ stateCause a s.sess s.scanact = none := by
  unfold stateCheck; split <;> simp [*]

theorem stateCheck_bind_eq_ok {a : Allowed} {s : State} {β : Type} {f : Unit → Except Raise β} {b : β} :
    (stateCheck a s >>= f) = .ok b ↔ stateCause a s.sess s.scanact = none ∧ f () = .ok b := by
  unfold stateCheck; split <;> simp [*]

/-- A command needing EMPTY runs only there. -/
theorem stateCause_emptyOnly {x : Session} {b : Bool} : stateCause .emptyOnly x b = none ↔ x = .empty := by
  cases x <;> cases b <;> decide

theorem stateCause_emptyOrNoScan {x : Session} {b : Bool} :
    stateCause .emptyOrNoScan x b = none ↔ x = .empty ∨ (x = .started ∧ b = false) := by
  cases x <;> cases b <;> decide

theorem stateCause_startedNoScan {x : Session} {b : Bool} :
    stateCause .startedNoScan x b = none ↔ x = .started ∧ b = false := by
  cases x <;> cases b <;> decide

theorem stateCause_startedScan {x : Session} {b : Bool} :
    stateCause .startedScan x b = none ↔ x = .started ∧ b = true := by
  cases x <;> cases b <;> decide

theorem stateCause_started {x : Session} {b : Bool} : stateCause .started x b = none ↔ x = .started := by
  cases x <;> cases b <;> decide

theorem stateCause_notFailed {x : Session} {b : Bool} : stateCause .notFailed x b = none ↔ x ≠ .failed := by
  cases x <;> cases b <;> decide

/-- One step with a host access pending is that access. -/
theorem step_cons {s : State} {h : HostOp} {rest : List HostOp} (hq : s.hostq = h :: rest) :
    step s = hostStep exec h { s with hostq := rest } := by
  unfold step nextAccess; rw [hq]

/-- One step with no host access pending holds the state (R332). -/
theorem step_idle {s : State} (hq : s.hostq = []) : step s = .next s := by
  unfold step nextAccess; rw [hq]

end Sys2Proof.Machine
end

