-- ==== Sys2Proof/Laws/BitStream.lean ====
section
/-! SUPPORT. What the bit-stream primitives can do: a bit is used only when the segment has it, and a symbol or field that is read ends inside the segment. -/

namespace Sys2Proof.Machine

theorem Segment.need_eq_ok {g : Segment} {i : Nat} {u : Unit} : g.need i = .ok u ↔ i < g.bits := by
  unfold Segment.need
  split
  · simp [*]
  · split <;> simp [*]

theorem Segment.need_bind_eq_ok {g : Segment} {i : Nat} {β : Type} {f : Unit → Except Raise β} {b : β} :
    (g.need i >>= f) = .ok b ↔ i < g.bits ∧ f () = .ok b := by
  rw [except_bind_eq_ok]
  constructor
  · rintro ⟨a, h, hf⟩
    exact ⟨Segment.need_eq_ok.mp h, hf⟩
  · rintro ⟨h, hf⟩
    exact ⟨(), Segment.need_eq_ok.mpr h, hf⟩

/-- A field that was read lies inside the segment. -/
theorem Segment.takeBits_bound {g : Segment} {n pos v r : Nat} (h : g.takeBits n pos v = .ok r) (hn : 0 < n) :
    pos + n ≤ g.bits := by
  induction n generalizing pos v with
  | zero => omega
  | succ n ih =>
    rw [Segment.takeBits, Segment.need_bind_eq_ok] at h
    rcases Nat.eq_zero_or_pos n with h0 | h0
    · omega
    · have := ih h.2 h0
      omega

/-- A field can be read exactly when the segment has its bits. -/
theorem Segment.takeBits_ok {g : Segment} {n pos : Nat} (v : Nat) (h : pos + n ≤ g.bits) :
    ∃ r, g.takeBits n pos v = .ok r := by
  induction n generalizing pos v with
  | zero => exact ⟨v, rfl⟩
  | succ n ih =>
    obtain ⟨r, hr⟩ := ih (2 * v + g.peekBit pos) (show pos + 1 + n ≤ g.bits by omega)
    exact ⟨r, by rw [Segment.takeBits, Segment.need_bind_eq_ok]; exact ⟨by omega, hr⟩⟩

/-- A symbol that was found ends inside the segment and is at least one and at most k bits long. -/
theorem Segment.symSearch_bound {g : Segment} {t : HuffTable} {k l pos v : Nat} {r : Byte × Nat}
    (h : g.symSearch t k l pos v = .ok r) : pos < r.2 ∧ r.2 ≤ pos + k ∧ r.2 ≤ g.bits := by
  induction k generalizing l pos v with
  | zero => cases h
  | succ k ih =>
    rw [Segment.symSearch, Segment.need_bind_eq_ok] at h
    obtain ⟨hn, h⟩ := h
    dsimp only at h
    split at h
    · cases h
      dsimp only
      omega
    · have := ih h
      omega

/-- "DecodeSym reads at most 16 bits" (R236), all of them inside the segment. -/
theorem Segment.decodeSym_bound {g : Segment} {t : HuffTable} {pos : Nat} {r : Byte × Nat}
    (h : g.decodeSym t pos = .ok r) : pos < r.2 ∧ r.2 ≤ pos + 16 ∧ r.2 ≤ g.bits :=
  Segment.symSearch_bound h

/-- A segment has at most as many data bytes as the buffer has bytes after its start. -/
theorem scanSegment_length (rd : Nat → Byte) (len fuel p : Nat) : (scanSegment rd len fuel p).data.length ≤ len - p := by
  induction fuel generalizing p with
  | zero => simp [scanSegment]
  | succ fuel ih =>
    simp only [scanSegment]
    split
    · simp
    · split
      · have := ih (p + 1)
        simp only [Segment.cons, List.length_cons]
        omega
      · split
        · simp
        · split
          · have := ih (p + 2)
            simp only [Segment.cons, List.length_cons]
            omega
          · split <;> simp

/-- A segment's data bits are numbered below 2^35 (R44). -/
theorem State.segment_bits_lt (s : State) : s.segment.bits < 2 ^ 35 := by
  have h := scanSegment_length s.inByte s.inLen.toNat s.inLen.toNat s.seg.toNat
  have := s.inLen.isLt
  unfold Segment.bits State.segment
  omega

end Sys2Proof.Machine
end

