-- ==== Sys2Proof/Laws/Memory.lean ====
section
/-! SUPPORT. Laws of the byte spaces and planes: a read after a write, reads elsewhere, and the canonical form every operation keeps. -/

namespace Sys2Proof.Machine

@[simp] theorem findCell_nil (a : Nat) : findCell [] a = none := rfl

@[simp] theorem findCell_insertCell_same (a : Nat) (b : Byte) (m : List (Nat × Byte)) :
    findCell (insertCell a b m) a = some b := by
  induction m with
  | nil => simp [insertCell, findCell]
  | cons c m ih =>
    obtain ⟨k, v⟩ := c
    simp only [insertCell]
    split
    · simp [findCell]
    · split
      · simp [findCell]
      · simp [findCell, *]

theorem findCell_insertCell_other {a x : Nat} (b : Byte) (m : List (Nat × Byte)) (h : x ≠ a) :
    findCell (insertCell a b m) x = findCell m x := by
  induction m with
  | nil => simp [insertCell, findCell, Ne.symm h]
  | cons c m ih =>
    obtain ⟨k, v⟩ := c
    simp only [insertCell]
    split
    · simp [findCell, Ne.symm h]
    · split
      · rename_i hk; subst hk; simp [findCell, Ne.symm h]
      · simp [findCell, ih]

@[simp] theorem findCell_eraseCell_same (a : Nat) (m : List (Nat × Byte)) : findCell (eraseCell a m) a = none := by
  induction m with
  | nil => rfl
  | cons c m ih =>
    obtain ⟨k, v⟩ := c
    by_cases hk : k = a
    · simpa [eraseCell, hk] using ih
    · simpa [eraseCell, hk, findCell] using ih

theorem findCell_eraseCell_other {a x : Nat} (m : List (Nat × Byte)) (h : x ≠ a) :
    findCell (eraseCell a m) x = findCell m x := by
  induction m with
  | nil => rfl
  | cons c m ih =>
    obtain ⟨k, v⟩ := c
    by_cases hk : k = a
    · subst hk
      simpa [eraseCell, findCell, Ne.symm h] using ih
    · by_cases hx : k = x
      · subst hx; simp [eraseCell, hk, findCell]
      · simpa [eraseCell, hk, findCell, hx] using ih

theorem mem_insertCell {a : Nat} {b : Byte} {m : List (Nat × Byte)} {c : Nat × Byte} (h : c ∈ insertCell a b m) :
    c = (a, b) ∨ c ∈ m := by
  induction m with
  | nil => simpa [insertCell] using h
  | cons d m ih =>
    obtain ⟨k, v⟩ := d
    simp only [insertCell] at h
    split at h
    · simpa using h
    · split at h
      · rcases List.mem_cons.mp h with h | h
        · exact .inl h
        · exact .inr (List.mem_cons_of_mem _ h)
      · rcases List.mem_cons.mp h with h | h
        · exact .inr (h ▸ List.mem_cons_self)
        · exact (ih h).imp_right (List.mem_cons_of_mem _)

theorem risingKeys_insertCell (a : Nat) (b : Byte) {m : List (Nat × Byte)} (h : risingKeys m) :
    risingKeys (insertCell a b m) := by
  induction m with
  | nil => simp [insertCell, risingKeys]
  | cons d m ih =>
    obtain ⟨k, v⟩ := d
    obtain ⟨hk, hm⟩ := List.pairwise_cons.mp h
    simp only [insertCell]
    split
    · rename_i hlt
      refine List.pairwise_cons.mpr ⟨fun c hc => ?_, h⟩
      rcases List.mem_cons.mp hc with rfl | hc
      · exact hlt
      · exact Nat.lt_trans hlt (hk c hc)
    · split
      · rename_i heq
        subst heq
        exact List.pairwise_cons.mpr ⟨hk, hm⟩
      · refine List.pairwise_cons.mpr ⟨fun c hc => ?_, ih hm⟩
        rcases mem_insertCell hc with rfl | hc
        · show k < a
          omega
        · exact hk c hc

theorem risingKeys_eraseCell (a : Nat) {m : List (Nat × Byte)} (h : risingKeys m) : risingKeys (eraseCell a m) :=
  List.Pairwise.filter _ h

/-- A read after a write: the written byte at its address, every other byte as before. -/
theorem Memory.read_write (m : Memory) (a x : Nat) (b : Byte) :
    Memory.read (Memory.write m a b) x = if x = a then b else Memory.read m x := by
  unfold Memory.read Memory.write
  split
  · rename_i hb
    by_cases hx : x = a
    · subst hx; simp [hb]
    · simp [hx, findCell_eraseCell_other]
  · by_cases hx : x = a
    · subst hx; simp
    · simp [hx, findCell_insertCell_other]

theorem Memory.wf_write {m : Memory} (a : Nat) (b : Byte) (h : Memory.wf m) : Memory.wf (Memory.write m a b) := by
  unfold Memory.write
  split
  · exact ⟨risingKeys_eraseCell a h.1, fun c hc => h.2 c (List.mem_of_mem_filter hc)⟩
  · rename_i hb
    refine ⟨risingKeys_insertCell a b h.1, fun c hc => ?_⟩
    rcases mem_insertCell hc with rfl | hc
    · exact hb
    · exact h.2 c hc

theorem Memory.wf_writeBytes {m : Memory} (a : Nat) (bs : List Byte) (h : Memory.wf m) :
    Memory.wf (Memory.writeBytes m a bs) := by
  induction bs generalizing m a with
  | nil => exact h
  | cons b bs ih => exact ih (a + 1) (Memory.wf_write a b h)

/-- What a run of bytes written from address a leaves at address x. -/
theorem Memory.read_writeBytes (m : Memory) (a x : Nat) (bs : List Byte) :
    Memory.read (Memory.writeBytes m a bs) x =
      if a ≤ x ∧ x < a + bs.length then bs.getD (x - a) 0 else Memory.read m x := by
  induction bs generalizing m a with
  | nil =>
    have h : ¬ (a ≤ x ∧ x < a + ([] : List Byte).length) := by simp
    rw [if_neg h]; rfl
  | cons b bs ih =>
    simp only [Memory.writeBytes, ih, Memory.read_write, List.length_cons]
    by_cases h1 : x = a
    · subst h1
      rw [if_neg (by omega), if_pos rfl, if_pos (by omega)]
      simp
    · by_cases h2 : a + 1 ≤ x ∧ x < a + 1 + bs.length
      · rw [if_pos h2, if_pos (by omega)]
        obtain ⟨n, hn⟩ : ∃ n, x - a = n + 1 := ⟨x - (a + 1), by omega⟩
        rw [hn, show x - (a + 1) = n by omega]
        simp
      · rw [if_neg h2, if_neg h1, if_neg (by omega)]

@[simp] theorem Memory.wf_nil : Memory.wf [] := by simp [Memory.wf, risingKeys]

theorem Memory.wf_ofBytes (bs : List Byte) : Memory.wf (Memory.ofBytes bs) := Memory.wf_writeBytes 0 bs Memory.wf_nil

theorem Memory.read_ofBytes (bs : List Byte) (x : Nat) : Memory.read (Memory.ofBytes bs) x = bs.getD x 0 := by
  unfold Memory.ofBytes
  rw [Memory.read_writeBytes]
  split
  · simp
  · rename_i h
    have hx : bs.length ≤ x := by omega
    simp [List.getD, Memory.read, Memory.unlisted, hx]

/-- Positions in the columns a plane can have keep their keys apart. -/
theorem sampleKey_inj {x y x' y' : Nat} (hx : x < 524288) (hx' : x' < 524288) (h : sampleKey x y = sampleKey x' y') :
    x = x' ∧ y = y' := by
  unfold sampleKey at h
  omega

theorem Plane.sample?_put_same (p : Plane) (x y : Nat) (v : Byte) : Plane.sample? (Plane.put p x y v) x y = some v :=
  findCell_insertCell_same _ _ _

theorem Plane.sample?_put_other {x y x' y' : Nat} (p : Plane) (v : Byte) (hx : x < 524288) (hx' : x' < 524288)
    (h : ¬ (x' = x ∧ y' = y)) : Plane.sample? (Plane.put p x y v) x' y' = Plane.sample? p x' y' :=
  findCell_insertCell_other _ _ fun he => h (by
    obtain ⟨h1, h2⟩ := sampleKey_inj hx' hx he
    exact ⟨h1, h2⟩)

theorem Plane.rising_put {p : Plane} (x y : Nat) (v : Byte) (h : risingKeys p) : risingKeys (Plane.put p x y v) :=
  risingKeys_insertCell _ _ h

/-- A fold of plane writes keeps the canonical form. -/
theorem Plane.rising_foldl_put {ι : Type} (l : List ι) (fx fy : ι → Nat) (fv : ι → Byte) {p : Plane} (h : risingKeys p) :
    risingKeys (l.foldl (fun p i => Plane.put p (fx i) (fy i) (fv i)) p) := by
  induction l generalizing p with
  | nil => exact h
  | cons i l ih => exact ih (Plane.rising_put _ _ _ h)

theorem Plane.rising_putBlock {p : Plane} (bx row : Nat) (samp : Vector Byte 64) (h : risingKeys p) :
    risingKeys (Plane.putBlock p bx row samp) :=
  Plane.rising_foldl_put (List.range 64) _ _ _ h

/-- A fold of plane writes leaves a position that none of them writes. -/
theorem Plane.sample?_foldl_put_other {ι : Type} (l : List ι) (fx fy : ι → Nat) (fv : ι → Byte) (p : Plane) {x y : Nat}
    (hx : x < 524288) (hl : ∀ i ∈ l, fx i < 524288 ∧ ¬ (x = fx i ∧ y = fy i)) :
    Plane.sample? (l.foldl (fun p i => Plane.put p (fx i) (fy i) (fv i)) p) x y = Plane.sample? p x y := by
  induction l generalizing p with
  | nil => rfl
  | cons i l ih =>
    obtain ⟨h1, h2⟩ := hl i List.mem_cons_self
    rw [List.foldl_cons, ih _ fun j hj => hl j (List.mem_cons_of_mem _ hj)]
    exact Plane.sample?_put_other p _ h1 hx h2

/-- PUT_BLOCK's store leaves every sample outside its block as it was. -/
theorem Plane.sample?_putBlock_outside {bx row x y : Nat} (p : Plane) (samp : Vector Byte 64) (hb : bx < 65536)
    (hx : x < 524288) (h : ¬ (x / 8 = bx ∧ y / 8 = row)) :
    Plane.sample? (Plane.putBlock p bx row samp) x y = Plane.sample? p x y := by
  refine Plane.sample?_foldl_put_other (List.range 64) _ _ _ p hx fun i hi => ?_
  have := List.mem_range.mp hi
  omega

theorem Plane.rising_ofCells (cells : List (Nat × Byte)) : risingKeys (Plane.ofCells cells) := by
  suffices h : ∀ (p : List (Nat × Byte)), risingKeys p → risingKeys (cells.foldl (fun p c => insertCell c.1 c.2 p) p) from
    h [] (by simp [risingKeys])
  induction cells with
  | nil => exact fun p hp => hp
  | cons c cells ih => exact fun p hp => ih _ (risingKeys_insertCell _ _ hp)

end Sys2Proof.Machine
end

