-- ==== Sys2Proof/Laws/Blocks.lean ====
section
/-! SUPPORT. What the block-level operations can do: the value of a bit field, the bounds of the AC loop, one block decoded, a
restart, one block of an MCU, and the samples a block store writes. -/

namespace Sys2Proof.Machine

/-! Elements of block buffers. -/

theorem at64_eq {w : Nat} (v : Vector (BitVec w) 64) (i : Nat) : at64 v i = v[i]?.getD 0 := by
  simp [at64, Vector.getD, Array.getD_eq_getD_getElem?]

theorem at64_set_ne {w : Nat} (v : Vector (BitVec w) 64) {k i : Nat} (x : BitVec w) (h : k ≠ i) :
    at64 (v.setIfInBounds k x) i = at64 v i := by
  simp [at64_eq, h]

theorem at64_set_same {w : Nat} (v : Vector (BitVec w) 64) {k : Nat} (x : BitVec w) (h : k < 64) :
    at64 (v.setIfInBounds k x) k = x := by
  simp [at64_eq, h]

theorem at64_ofFn {w : Nat} (f : Fin 64 → BitVec w) {i : Nat} (h : i < 64) : at64 (Vector.ofFn f) i = f ⟨i, h⟩ := by
  simp [at64_eq, h]

theorem at64_replicate {w : Nat} (x : BitVec w) {i : Nat} (h : i < 64) : at64 (Vector.replicate 64 x) i = x := by
  simp [at64_eq, h]

/-- The zig-zag table has no entry twice, and every entry is an index of a block (R219). -/
theorem zz_perm : (∀ k < 64, zz k < 64) ∧ ∀ j < 64, ∀ k < 64, zz j = zz k → j = k := by decide +kernel

theorem at64_foldl_zz_other {w : Nat} (e : Nat → BitVec w) (l : List Nat) (v : Vector (BitVec w) 64) {i : Nat}
    (h : ∀ j ∈ l, zz j ≠ i) : at64 (l.foldl (fun v k => v.setIfInBounds (zz k) (e k)) v) i = at64 v i := by
  induction l generalizing v with
  | nil => rfl
  | cons j l ih =>
    rw [List.foldl_cons, ih _ fun m hm => h m (List.mem_cons_of_mem _ hm), at64_set_ne _ _ (h j List.mem_cons_self)]

theorem at64_foldl_zz_mem {w : Nat} (e : Nat → BitVec w) (l : List Nat) (v : Vector (BitVec w) 64) {k : Nat} (hk : k ∈ l)
    (hl : ∀ j ∈ l, j < 64) : at64 (l.foldl (fun v k => v.setIfInBounds (zz k) (e k)) v) (zz k) = e k := by
  induction l generalizing v with
  | nil => cases hk
  | cons j l ih =>
    rw [List.foldl_cons]
    by_cases h : k ∈ l
    · exact ih _ h fun m hm => hl m (List.mem_cons_of_mem _ hm)
    · obtain rfl : k = j := (List.mem_cons.mp hk).resolve_right h
      rw [at64_foldl_zz_other e l _ fun m hm he =>
        h (zz_perm.2 m (hl m (List.mem_cons_of_mem _ hm)) k (hl k List.mem_cons_self) he ▸ hm)]
      exact at64_set_same _ _ (zz_perm.1 k (hl k List.mem_cons_self))

/-- The k-th coded entry lands at natural index ZZ[k] (R177, R221). -/
theorem at64_scatterZigzag {w : Nat} (e : Nat → BitVec w) {k : Nat} (h : k < 64) : at64 (scatterZigzag e) (zz k) = e k :=
  at64_foldl_zz_mem e (List.range 64) _ (List.mem_range.mpr h) fun _ => List.mem_range.mp

/-! Bit fields. -/

theorem Segment.need_exhausted {g : Segment} {i : Nat} (h : g.bits ≤ i) : g.need i = .error (.decodeError g.exhausted) := by
  unfold Segment.need Segment.exhausted
  rw [if_neg (by omega)]
  split <;> simp [*]

@[simp] theorem Segment.fieldValue_zero (g : Segment) (pos : Nat) : g.fieldValue pos 0 = 0 := rfl

/-- A field's first bit is its most significant. -/
theorem Segment.fieldValue_succ (g : Segment) (pos n : Nat) :
    g.fieldValue pos (n + 1) = g.peekBit pos * 2 ^ n + g.fieldValue (pos + 1) n := by
  simp only [Segment.fieldValue, List.range_succ_eq_map, List.map_cons, List.sum_cons, List.map_map]
  simp only [Nat.add_zero, Nat.add_sub_cancel, Nat.sub_zero]
  congr 2
  refine List.map_congr_left fun i _ => ?_
  simp only [Function.comp_apply]
  rw [show pos + i.succ = pos + 1 + i by omega, show n - i.succ = n - 1 - i by omega]

/-- A field the segment has is read with its value. -/
theorem Segment.takeBits_value {g : Segment} {n pos : Nat} (v : Nat) (h : pos + n ≤ g.bits) :
    g.takeBits n pos v = .ok (v * 2 ^ n + g.fieldValue pos n) := by
  induction n generalizing pos v with
  | zero => simp [Segment.takeBits]
  | succ n ih =>
    rw [Segment.takeBits, Segment.need_bind_eq_ok]
    refine ⟨by omega, ?_⟩
    rw [ih _ (by omega), Segment.fieldValue_succ]
    congr 1
    ring

/-- A field the segment does not have is exhaustion. -/
theorem Segment.takeBits_exhausted {g : Segment} {n pos : Nat} (v : Nat) (hn : 0 < n) (h : g.bits < pos + n) :
    g.takeBits n pos v = .error (.decodeError g.exhausted) := by
  induction n generalizing pos v with
  | zero => omega
  | succ n ih =>
    rw [Segment.takeBits]
    by_cases hp : pos < g.bits
    · rw [(Segment.need_eq_ok (u := ())).mpr hp]
      exact ih _ (by omega) (by omega)
    · rw [Segment.need_exhausted (by omega)]
      rfl

theorem Segment.recvExt_eq_ok {g : Segment} {t pos : Nat} {v : Int} (h : g.recvExt t pos = .ok v) :
    ∃ n, g.nextBits t pos = .ok n ∧ v = extend n t := by
  unfold Segment.recvExt at h
  obtain ⟨n, hn, hv⟩ := except_bind_eq_ok.mp h
  exact ⟨n, hn, (Except.ok.inj hv).symm⟩

/-- The AC loop stops at a position in 1..64, never moves the cursor back or past the segment, and leaves ZZV[0] alone. -/
theorem Segment.acLoop_bound {g : Segment} {t : HuffTable} {fuel : Nat} {r r' : BlockRead} (h : g.acLoop t fuel r = .ok r')
    (hk : 1 ≤ r.kend) (hk' : r.kend ≤ 64) (hp : r.pos ≤ g.bits) :
    1 ≤ r'.kend ∧ r'.kend ≤ 64 ∧ r.pos ≤ r'.pos ∧ r'.pos ≤ g.bits ∧ at64 r'.zzv 0 = at64 r.zzv 0 := by
  induction fuel generalizing r with
  | zero => cases h; exact ⟨hk, hk', Nat.le_refl _, hp, rfl⟩
  | succ fuel ih =>
    rw [Segment.acLoop] at h
    split at h
    · cases h; exact ⟨hk, hk', Nat.le_refl _, hp, rfl⟩
    · obtain ⟨⟨rs, pos⟩, hd, h⟩ := except_bind_eq_ok.mp h
      obtain ⟨h1, -, h3⟩ := Segment.decodeSym_bound hd
      dsimp only at h h1 h3
      split at h
      · split at h
        · split at h
          · cases h
          · obtain ⟨a, b, c, d, e⟩ := ih h (by dsimp only; omega) (by dsimp only; omega) h3
            exact ⟨a, b, by dsimp only at c; omega, d, e⟩
        · cases h
          exact ⟨hk, hk', by dsimp only; omega, h3, rfl⟩
      · split at h
        · cases h
        · obtain ⟨v, hv, h⟩ := except_bind_eq_ok.mp h
          obtain ⟨n, hn, -⟩ := Segment.recvExt_eq_ok hv
          have hb := Segment.takeBits_bound hn (by omega)
          obtain ⟨a, b, c, d, e⟩ := ih h (by dsimp only; omega) (by dsimp only; omega) hb
          refine ⟨a, b, by dsimp only at c; omega, d, e.trans ?_⟩
          exact at64_set_ne _ _ (by omega)

theorem Segment.acStep_zrl {g : Segment} {t : HuffTable} {z : Vector (BitVec 16) 64} {pos k p : Nat} (hk : k + 16 ≤ 64)
    (h : g.decodeSym t pos = .ok (0xF0, p)) : g.AcStep t ⟨z, pos, k⟩ ⟨z, p, k + 16⟩ :=
  ⟨show k < 64 by omega, 0xF0, p, h, .inl ⟨rfl, hk, rfl⟩⟩

theorem Segment.acStep_coef {g : Segment} {t : HuffTable} {z : Vector (BitVec 16) 64} {pos k p : Nat} {rs : Byte}
    (h : g.decodeSym t pos = .ok (rs, p)) (hs : rs.toNat % 2 ^ 4 ≠ 0) (hk : k + rs.toNat / 2 ^ 4 ≤ 63)
    (hb : p + rs.toNat % 2 ^ 4 ≤ g.bits) :
    g.AcStep t ⟨z, pos, k⟩
      ⟨z.setIfInBounds (k + rs.toNat / 2 ^ 4)
        (BitVec.ofInt 16 (extend (g.fieldValue p (rs.toNat % 2 ^ 4)) (rs.toNat % 2 ^ 4))),
        p + rs.toNat % 2 ^ 4, k + rs.toNat / 2 ^ 4 + 1⟩ :=
  ⟨show k < 64 by omega, rs, p, h, .inr ⟨hs, hk, hb, rfl⟩⟩

/-- An AC symbol of size 0 is a ZRL, 0xF0, exactly when its run is 15. -/
theorem byte_eq_zrl {rs : Byte} (hs : rs.toNat % 16 = 0) : rs.toNat / 16 = 15 ↔ rs = 0xF0 := by
  rw [← BitVec.toNat_inj]
  have := rs.isLt
  constructor <;> intro h <;> simp at * <;> omega

/-- Everything the AC loop can do when it ends: passes that go on, and then an end (R220). -/
theorem Segment.acLoop_cases {g : Segment} {t : HuffTable} {fuel : Nat} {r r' : BlockRead} (h : g.acLoop t fuel r = .ok r')
    (hf : 64 ≤ r.kend + fuel) : ∃ m, Relation.ReflTransGen (g.AcStep t) r m ∧ g.AcEnds t m r' := by
  induction fuel generalizing r with
  | zero => cases h; exact ⟨_, .refl, .inl ⟨hf, rfl⟩⟩
  | succ fuel ih =>
    rw [Segment.acLoop] at h
    split at h
    · rename_i hk; cases h; exact ⟨_, .refl, .inl ⟨hk, rfl⟩⟩
    · obtain ⟨⟨rs, p⟩, hd, h⟩ := except_bind_eq_ok.mp h
      dsimp only at h
      split at h
      · rename_i hk hs
        split at h
        · split at h
          · cases h
          · rename_i hr hz
            obtain ⟨m, hm, he⟩ := ih h (by dsimp only; omega)
            obtain rfl := (byte_eq_zrl hs).mp hr
            exact ⟨m, hm.head (Segment.acStep_zrl (by omega) hd), he⟩
        · rename_i hr
          cases h
          exact ⟨r, .refl, .inr ⟨by omega, rs, p, hd, hs, fun he => hr ((byte_eq_zrl hs).mpr he), rfl⟩⟩
      · rename_i hs
        split at h
        · cases h
        · obtain ⟨v, hv, h⟩ := except_bind_eq_ok.mp h
          obtain ⟨n, hn, rfl⟩ := Segment.recvExt_eq_ok hv
          have hb := Segment.takeBits_bound hn (by omega)
          obtain rfl : g.fieldValue p (rs.toNat % 16) = n := by
            have := hn.symm.trans (Segment.takeBits_value 0 hb)
            simpa using this.symm
          obtain ⟨m, hm, he⟩ := ih h (by dsimp only; omega)
          exact ⟨m, hm.head (Segment.acStep_coef hd hs (by omega) hb), he⟩

/-- Everything decoding one block can do: COEF, one predictor and the cursor (R221). -/
theorem State.decodeBlock_cases {s t : State} {i kend : Nat} (h : s.decodeBlock i = .ok (t, kend)) :
    ∃ r, s.segment.blockRead (s.ht 0 (s.slot i).td) (s.ht 1 (s.slot i).ta) (s.pred.get (s.slotComp i)) s.bitpos.toNat = .ok r ∧
      kend = r.kend ∧
      t = { s with
            bitpos := BitVec.ofNat 35 r.pos, coef := scatterZigzag (at64 r.zzv),
            pred := s.pred.set (s.slotComp i) (at64 r.zzv 0) } := by
  unfold State.decodeBlock at h
  obtain ⟨r, hr, h⟩ := except_bind_eq_ok.mp h
  cases h
  exact ⟨r, hr, rfl, rfl⟩

/-- Everything a restart can do when it goes through (R222). -/
theorem State.restart_cases {s t : State} (h : s.restart = .ok t) :
    ∃ code a n, s.segment.stop = .marker code a n ∧ s.segment.bits ≤ alignUp s.bitpos.toNat ∧
      code.toNat = 0xD0 + s.rstnext.toNat ∧
      t = { s with seg := BitVec.ofNat 32 n, bitpos := 0, pred := .all 0, rstnext := s.rstnext + 1 } := by
  unfold State.restart at h
  dsimp only at h
  rw [require_bind_eq_ok] at h
  obtain ⟨hb, h⟩ := h
  split at h
  · cases h
  · rename_i code a n hstop
    rw [require_bind_eq_ok] at h
    obtain ⟨hc, h⟩ := h
    cases h
    exact ⟨code, a, n, hstop, by omega, hc, rfl⟩

/-- One block of an MCU is its decoding followed by its store (R234). -/
theorem State.mcuBlock_cases {s t : State} {b : McuBlock} (h : s.mcuBlock b = .ok t) :
    ∃ u kend, s.decodeBlock b.slot = .ok (u, kend) ∧ t = u.storeBlock b := by
  unfold State.mcuBlock at h
  obtain ⟨⟨u, kend⟩, hu, h⟩ := except_bind_eq_ok.mp h
  cases h
  exact ⟨u, kend, hu, rfl⟩

/-- A sample that a fold of plane writes writes, and that no later write of the fold writes again. -/
theorem Plane.sample?_foldl_put_mem {ι : Type} (l : List ι) (fx fy : ι → Nat) (fv : ι → Byte) (p : Plane) {i : ι} (hi : i ∈ l)
    (hx : ∀ j ∈ l, fx j < 524288) (hv : ∀ j ∈ l, fx j = fx i → fy j = fy i → fv j = fv i) :
    Plane.sample? (l.foldl (fun p j => Plane.put p (fx j) (fy j) (fv j)) p) (fx i) (fy i) = some (fv i) := by
  induction l generalizing p i with
  | nil => cases hi
  | cons j l ih =>
    rw [List.foldl_cons]
    by_cases hl : ∃ k ∈ l, fx k = fx i ∧ fy k = fy i
    · obtain ⟨k, hk, h1, h2⟩ := hl
      have hk' := hv k (List.mem_cons_of_mem _ hk) h1 h2
      have := ih (Plane.put p (fx j) (fy j) (fv j)) hk (fun m hm => hx m (List.mem_cons_of_mem _ hm)) fun m hm e1 e2 =>
        (hv m (List.mem_cons_of_mem _ hm) (e1.trans h1) (e2.trans h2)).trans hk'.symm
      rwa [h1, h2, hk'] at this
    · have hij : fx j = fx i ∧ fy j = fy i := by
        rcases List.mem_cons.mp hi with rfl | hi
        · exact ⟨rfl, rfl⟩
        · exact absurd ⟨i, hi, rfl, rfl⟩ hl
      rw [Plane.sample?_foldl_put_other l fx fy fv _ (hx i hi) fun k hk =>
        ⟨hx k (List.mem_cons_of_mem _ hk), fun he => hl ⟨k, hk, he.1.symm, he.2.symm⟩⟩]
      rw [hv j List.mem_cons_self hij.1 hij.2, hij.1, hij.2]
      exact Plane.sample?_put_same _ _ _ _

/-- Host memory at reset is in canonical form. -/
theorem State.reset_memory_wf : Memory.wf State.reset.inMem ∧ Memory.wf State.reset.outMem :=
  ⟨Memory.wf_nil, Memory.wf_nil⟩

end Sys2Proof.Machine
end

