-- ==== Sys2Proof/Laws/PerInstr.lean ====
section
/-! SUPPORT. Per-instruction laws of the encoding: the word of every command carries that command's opcode in bits [31:26] (R110,
R115). -/

namespace Sys2Proof

/-- A slice of the upper part of an append. -/
theorem extract_append_high {m n : Nat} (lo len : Nat) (a : BitVec m) (b : BitVec n) (h : n ≤ lo) :
    (a ++ b).extractLsb' lo len = a.extractLsb' (lo - n) len := by
  ext i hi
  simp only [BitVec.getElem_extractLsb', BitVec.getLsbD_append]
  rw [if_neg (by omega)]
  congr 1
  omega

/-- A slice of the lower part of an append. -/
theorem extract_append_low {m n : Nat} (lo len : Nat) (a : BitVec m) (b : BitVec n) (h : lo + len ≤ n) :
    (a ++ b).extractLsb' lo len = b.extractLsb' lo len := by
  ext i hi
  simp only [BitVec.getElem_extractLsb', BitVec.getLsbD_append]
  rw [if_pos (by omega)]

end Sys2Proof

namespace Sys2Proof.Laws.EncodedOpcode

/-- Bits [31:26] of the word of a command are its opcode. -/
def Statement (i : Instr) : Prop := opField (encode i) = i.op

theorem sreset : Statement .sreset := rfl

theorem setInput : Statement .setInput := rfl

theorem start (ord : BitVec 2) : Statement (.start ord) := by
  unfold Statement opField encode
  simp (disch := decide) only [extract_append_high]
  rfl

theorem finish : Statement .finish := rfl

theorem abort : Statement .abort := rfl

theorem rdBuf (sel : BitVec 3) (idx : BitVec 6) : Statement (.rdBuf sel idx) := by
  unfold Statement opField encode
  simp (disch := decide) only [extract_append_high]
  rfl

theorem loadQt (pq tq : BitVec 4) : Statement (.loadQt pq tq) := by
  unfold Statement opField encode
  simp (disch := decide) only [extract_append_high]
  rfl

theorem loadHt (tc th : BitVec 4) : Statement (.loadHt tc th) := by
  unfold Statement opField encode
  simp (disch := decide) only [extract_append_high]
  rfl

theorem setFrame (p nf : BitVec 8) : Statement (.setFrame p nf) := by
  unfold Statement opField encode
  simp (disch := decide) only [extract_append_high]
  rfl

theorem setComp (c : BitVec 2) (h v : BitVec 4) (tq : BitVec 8) : Statement (.setComp c h v tq) := by
  unfold Statement opField encode
  simp (disch := decide) only [extract_append_high]
  rfl

theorem setDri : Statement .setDri := rfl

theorem setScanComp (s c : BitVec 2) (td ta : BitVec 4) : Statement (.setScanComp s c td ta) := by
  unfold Statement opField encode
  simp (disch := decide) only [extract_append_high]
  rfl

theorem startScan (ns : BitVec 8) : Statement (.startScan ns) := by
  unfold Statement opField encode
  simp (disch := decide) only [extract_append_high]
  rfl

theorem decHuff (tc : BitVec 1) (th : BitVec 2) : Statement (.decHuff tc th) := by
  unfold Statement opField encode
  simp (disch := decide) only [extract_append_high]
  rfl

theorem getBits (n : BitVec 5) : Statement (.getBits n) := by
  unfold Statement opField encode
  simp (disch := decide) only [extract_append_high]
  rfl

theorem getExt (n : BitVec 5) : Statement (.getExt n) := by
  unfold Statement opField encode
  simp (disch := decide) only [extract_append_high]
  rfl

theorem decBlock (s : BitVec 2) : Statement (.decBlock s) := by
  unfold Statement opField encode
  simp (disch := decide) only [extract_append_high]
  rfl

theorem decMcu : Statement .decMcu := rfl

theorem scanEnd : Statement .scanEnd := rfl

theorem dequant (tq : BitVec 2) : Statement (.dequant tq) := by
  unfold Statement opField encode
  simp (disch := decide) only [extract_append_high]
  rfl

theorem idct : Statement .idct := rfl

theorem putBlock (c : BitVec 2) : Statement (.putBlock c) := by
  unfold Statement opField encode
  simp (disch := decide) only [extract_append_high]
  rfl

theorem ccRow : Statement .ccRow := rfl

theorem ccPix : Statement .ccPix := rfl

end Sys2Proof.Laws.EncodedOpcode
end

