-- ==== Sys2Proof/Tests/Slice0.lean ====
section
/-! SUPPORT. The model's own tests: the well-formedness smoke, decoding of words written out from the spec, one-step vectors of
95_test_vectors.md and the rules' examples, and a witness that meets the hypotheses of each obligation. -/

namespace Sys2Proof.Tests

set_option Elab.async false

open Sys2Proof.Machine

/-! Well-formedness: each block field out of its range (R117). -/

theorem test_wf_start_ord : (Instr.start 2).wf = false := by decide
theorem test_wf_rdBuf_sel : (Instr.rdBuf 4 0).wf = false := by decide
theorem test_wf_rdBuf_pred_idx : (Instr.rdBuf 3 3).wf = false := by decide
theorem test_wf_setComp_c : (Instr.setComp 3 1 1 0).wf = false := by decide
theorem test_wf_setScanComp_c : (Instr.setScanComp 0 3 0 0).wf = false := by decide
theorem test_wf_putBlock_c : (Instr.putBlock 3).wf = false := by decide
theorem test_wf_getBits_n : (Instr.getBits 17).wf = false := by decide
theorem test_wf_getExt_n : (Instr.getExt 16).wf = false := by decide
theorem test_wf_bounds : ∀ i ∈ [Instr.start 1, .rdBuf 2 63, .rdBuf 3 2, .setComp 2 15 15 255, .setScanComp 3 2 15 15,
    .putBlock 2, .getBits 16, .getExt 15], i.wf = true := by decide

/-! Decoding: a word of every command, its fields written bit by bit at the places of R111 (op, then [25:0]). -/

theorem test_decode_control :
    decode 0b00000100000000000000000000000000 = .ok .sreset ∧
    decode 0b00001000000000000000000000000000 = .ok .setInput ∧
    decode 0b00001100000000000000000000000001 = .ok (.start 1) ∧
    decode 0b00010000000000000000000000000000 = .ok .finish ∧
    decode 0b00010100000000000000000000000000 = .ok .abort ∧
    decode 0b00011000000000000000001000100101 = .ok (.rdBuf 2 37) := by decide +kernel

theorem test_decode_config :
    decode 0b00100000000000000000000000010010 = .ok (.loadQt 1 2) ∧
    decode 0b00100100000000000000000000010011 = .ok (.loadHt 1 3) ∧
    decode 0b00101000000000000000110000000011 = .ok (.setFrame 12 3) ∧
    decode 0b00101100000000100010000100000011 = .ok (.setComp 2 2 1 3) ∧
    decode 0b00110000000000000000000000000000 = .ok .setDri ∧
    decode 0b00110100001000010000000000110010 = .ok (.setScanComp 2 1 3 2) ∧
    decode 0b00111000000000000000000000000011 = .ok (.startScan 3) := by decide +kernel

theorem test_decode_entropy :
    decode 0b01000000000000000000000000010010 = .ok (.decHuff 1 2) ∧
    decode 0b01000100000000000000000000001001 = .ok (.getBits 9) ∧
    decode 0b01001000000000000000000000001111 = .ok (.getExt 15) ∧
    decode 0b01001100000000000000000000000010 = .ok (.decBlock 2) ∧
    decode 0b01010000000000000000000000000000 = .ok .decMcu ∧
    decode 0b01010100000000000000000000000000 = .ok .scanEnd := by decide +kernel

theorem test_decode_transform_output :
    decode 0b01100000000000000000000000000011 = .ok (.dequant 3) ∧
    decode 0b01100100000000000000000000000000 = .ok .idct ∧
    decode 0b01101000000000000000000000000001 = .ok (.putBlock 1) ∧
    decode 0b01110000000000000000000000000000 = .ok .ccRow ∧
    decode 0b01110100000000000000000000000000 = .ok .ccPix := by decide +kernel

/-- V-ENC1 to V-ENC4, and a reserved bit between the fields of formats R, SC and H. -/
theorem test_decode_rejects :
    decode 0x00000000 = .error .illegalOpcode ∧ decode 0x78000000 = .error .illegalOpcode ∧
    decode 0xFC000000 = .error .illegalOpcode ∧ decode 0x04000001 = .error .reservedBits ∧
    decode 0x18000040 = .error .reservedBits ∧ decode 0x34040000 = .error .reservedBits ∧
    decode 0x40000004 = .error .reservedBits := by decide +kernel

theorem test_decodeTableWord : decodeTableWord 32 0x18000101 = some (.rdBuf 1 1) := by decide +kernel

/-! Small states. -/

/-- The state a command leaves. -/
def after (a : Answer) : State :=
  match a with
  | .next t => t
  | .fault _ => State.reset
  | .refused _ => State.reset

theorem exec_after (i : Instr) (s : State) : exec i s = .next (after (exec i s)) := by
  obtain ⟨r, hr⟩ := exec_complete i s
  obtain ⟨t, ht⟩ := complete_next i.op s r
  rw [hr, ht]
  rfl

theorem exists_next {a : Answer} (h : (match a with | .next _ => true | _ => false) = true) : ∃ t, a = .next t := by
  cases a with
  | next t => exact ⟨t, rfl⟩
  | fault r => cases h
  | refused r => cases h

theorem exists_ok {α : Type} {x : Except Raise α} (h : x.isOk = true) : ∃ a, x = .ok a := by
  cases x with
  | ok a => exact ⟨a, rfl⟩
  | error e => cases h

/-- Sixteen code-length counts, zero where not given. -/
def counts (l : List Nat) : Vector Byte 16 := Vector.ofFn fun i => BitVec.ofNat 8 (l.getD i 0)

/-- The table R176 builds from counts and symbols. -/
def table (l : List Nat) (symbols : List Byte) : HuffTable where
  hvalid := true
  bits := counts l
  huffval := symbols
  first := Vector.ofFn fun i => firstCode (counts l) (i + 1)
  off := Vector.ofFn fun i => symOffset (counts l) (i + 1)

/-! The tables of 95_test_vectors.md, section 2.1. -/

def d1 : HuffTable := table [1] [5]
def d15 : HuffTable := table [1] [15]
def a1 : HuffTable := table [1] [0]
def a3 : HuffTable := table [0, 0, 0, 8] [0x00, 0xF0, 0xE1, 0xF1, 0x01, 0x30, 0x11, 0x02]
def a4 : HuffTable := table [0, 2, 3, 1] [0x01, 0x02, 0x03, 0x11, 0x00, 0x21]

/-- EMPTY after a SET_INPUT, with the given bytes as IN and a window of 64 bytes. -/
def fresh (bytes : List Byte) : State :=
  { State.reset with inMem := Memory.ofBytes bytes, inLen := BitVec.ofNat 32 bytes.length, inSession := true, outLen := 64 }

/-- EMPTY, with an 8 by 8 grayscale frame, QT16 and two Huffman tables loaded. -/
def framed (dc ac : HuffTable) (bytes : List Byte) : State :=
  { fresh bytes with
    prec := 8
    nf := 1
    fx := 8
    fy := 8
    frameset := true
    comp := ⟨⟨true, 1, 1, 0⟩, .reset, .reset⟩
    qt := ⟨⟨true, Vector.replicate 64 16⟩, .reset, .reset, .reset⟩
    htDc := ⟨dc, .reset, .reset, .reset⟩
    htAc := ⟨ac, .reset, .reset, .reset⟩ }

/-- STARTED, no scan. -/
def started (bytes : List Byte) : State := after (exec (.start 0) (framed d1 a1 bytes))

/-- Set-up GRAY of 95_test_vectors.md, with the entropy-coded bytes at offset 0. -/
def gray (dc ac : HuffTable) (bytes : List Byte) : State :=
  after (exec (.startScan 1) (after (exec (.setScanComp 0 0 0 0) (after (exec (.start 0) (framed dc ac bytes))))))

/-- P1's scan: one block, DC 25, then EOI. -/
def p1 : State := gray d1 a1 [0x65, 0xFF, 0xD9]

/-- P1 after its DEC_MCU. -/
def decoded : State := after (exec .decMcu p1)

/-- P1 after its SCAN_END. -/
def ended : State := after (exec .scanEnd decoded)

/-- FAILED, by V-FRM1. -/
def failed : State := after (exec (.setFrame 12 1) (fresh []))

/-- A three-component frame in EMPTY with the given factors. -/
def colour (x y : BitVec 16) (f0 f1 f2 : BitVec 4 × BitVec 4) : State :=
  { framed d1 a1 [] with
    nf := 3
    fx := x
    fy := y
    comp := ⟨⟨true, f0.1, f0.2, 0⟩, ⟨true, f1.1, f1.2, 0⟩, ⟨true, f2.1, f2.2, 0⟩⟩ }

/-- A restart due before MCU 1 of 2, at the given bytes. -/
def restarting (m : BitVec 3) (bytes : List Byte) : State :=
  { gray d1 a1 bytes with ri := 1, mcutot := 2, mcucnt := 1, rstnext := m }

/-- An interleaved 4:2:0 scan of a 17 by 9 frame. -/
def interleaved : State :=
  { after (exec (.start 0) (colour 17 9 (2, 2) (1, 1) (1, 1))) with
    sc := ⟨⟨true, 0, 0, 0⟩, ⟨true, 1, 0, 0⟩, ⟨true, 2, 0, 0⟩, .reset⟩
    ns := 3 }

/-! One-step tests. -/

/-- V-CTL9 and R140's example: ARG stays, the fault is cleared. -/
theorem test_sreset :
    let t := after (exec .sreset { failed with arg := 7 })
    (t.result, t.sess, t.err, t.arg, t.frameset) = (.ok, .empty, 0, 7, false) := by decide +kernel

/-- R141's example. -/
theorem test_setInput :
    let t := after (exec .setInput { fresh [] with arg := 101 })
    (t.result, t.inLen, t.readReg 0x24) = (.ok, 101, 101) := by decide +kernel

/-- V-GEO3, and STATUS of V-CTL4. -/
theorem test_start_geometry :
    let t := after (exec (.start 1) (colour 35 20 (3, 1) (2, 1) (1, 1)))
    (t.status, t.hmax, t.vmax, t.mcux, t.mcuy, t.geom) =
      (0x00010210, 3, 1, 2, 3, ⟨⟨6, 3, 35, 20⟩, ⟨4, 3, 24, 20⟩, ⟨2, 3, 12, 20⟩⟩) := by decide +kernel

/-- V-CTL3. -/
theorem test_start_quant_undefined :
    let t := after (exec (.start 0) { framed d1 a1 [] with qt := .all .reset })
    (t.result, t.err, t.sess, t.width, t.frameset) = (.error, 0x0C001A01, .failed, 0, true) := by decide +kernel

/-- V-FIN5. -/
theorem test_finish :
    let t := after (exec .finish { ended with row := 8 })
    (t.result, t.sess, t.marker) = (.ok, .finished, 0xD9) := by decide +kernel

/-- V-FIN2. -/
theorem test_finish_no_eoi :
    let t := after (exec .finish { started [] with row := 8, marker := 0xC4 })
    (t.result, t.err, t.sess) = (.error, 0x10003A03, .failed) := by decide +kernel

/-- V-CTL8. -/
theorem test_abort_empty :
    let t := after (exec .abort (fresh []))
    (t.result, t.sess) = (.ok, .empty) := by decide +kernel

/-- P4: ABORT in FAILED keeps ERR. -/
theorem test_abort_failed :
    let t := after (exec .abort failed)
    (t.result, t.sess, t.err) = (.ok, .aborted, 0x28002002) := by decide +kernel

/-- V-CTL11: a predictor is sign-extended. -/
theorem test_rdBuf_pred :
    (after (exec (.rdBuf 3 0) { p1 with pred := ⟨0xFFFE, 0, 0⟩ })).res = 0xFFFFFFFE := by decide +kernel

/-- V-CTL12: a sample is zero-extended. -/
theorem test_rdBuf_samp : (after (exec (.rdBuf 2 0) decoded)).res = 178 := by decide +kernel

/-- V-QT6: big-endian entries in zig-zag order. -/
theorem test_loadQt_wide :
    let bytes := [0x01, 0x00] ++ (List.range 63).flatMap fun k => [0, BitVec.ofNat 8 (k + 2)]
    let t := after (exec (.loadQt 1 2) (fresh bytes))
    (t.result, t.res, at64 t.qt.i2.q 0, at64 t.qt.i2.q 1, at64 t.qt.i2.q 8, at64 t.qt.i2.q 63) =
      (.ok, 128, 256, 2, 3, 64) := by decide +kernel

/-- V-QT3. -/
theorem test_loadQt_truncated :
    let t := after (exec (.loadQt 0 0) { fresh [] with inLen := 101, arg := 40 })
    (t.result, t.err) = (.error, 0x20001001) := by decide +kernel

/-- V-HT13: D3's codes '00', '01', '10'. -/
theorem test_loadHt :
    let t := after (exec (.loadHt 0 0) (fresh ([0, 3] ++ List.replicate 14 0 ++ [5, 7, 4])))
    (t.result, t.res, t.htDc.i0) = (.ok, 19, table [0, 3] [5, 7, 4]) := by decide +kernel

/-- V-HT7: the all-ones code. -/
theorem test_loadHt_codespace :
    let t := after (exec (.loadHt 1 0) (fresh ([1, 2] ++ List.replicate 14 0 ++ [0, 1, 2])))
    (t.result, t.err) = (.error, 0x24001501) := by decide +kernel

/-- V-FRM7. -/
theorem test_setFrame :
    let t := after (exec (.setFrame 8 3) { fresh [] with arg := 0xFFFFFFFF })
    (t.result, t.frameset, t.nf, t.fx, t.fy) = (.ok, true, 3, 65535, 65535) := by decide +kernel

/-- V-FRM8: the precision check comes first. -/
theorem test_setFrame_precision :
    (after (exec (.setFrame 12 0) { fresh [] with arg := 0x00080008 })).err = 0x28002002 := by decide +kernel

/-- R173's example. -/
theorem test_setComp :
    (after (exec (.setComp 0 2 2 1) (framed d1 a1 []))).comp.c0 = ⟨true, 2, 2, 1⟩ := by decide +kernel

/-- V-FRM15: sampling is checked before the table id. -/
theorem test_setComp_sampling :
    (after (exec (.setComp 0 0 1 4) (framed d1 a1 []))).err = 0x2C001901 := by decide +kernel

/-- R174: ARG[31:16] is ignored. -/
theorem test_setDri :
    (after (exec .setDri { fresh [] with arg := 0xABCD0001 })).readReg 0x40 = 1 := by decide +kernel

/-- R175. -/
theorem test_setScanComp :
    (after (exec (.setScanComp 2 0 3 1) (started []))).sc.i2 = ⟨true, 0, 3, 1⟩ := by decide +kernel

/-- R178's example. -/
theorem test_startScan :
    let t := after (exec (.startScan 1) { after (exec (.setScanComp 0 0 0 0) (started [])) with arg := 98 })
    (t.result, t.seg, t.bitpos, t.mcutot, t.scanact) = (.ok, 98, 0, 1, true) := by decide +kernel

/-- R178: a Huffman table the scan names was never loaded. -/
theorem test_startScan_table :
    let t := after (exec (.startScan 1) (after (exec (.setScanComp 0 0 0 1) (started []))))
    (t.result, t.err) = (.error, 0x38001B01) := by decide +kernel

/-- V-HUF1. -/
theorem test_decHuff :
    let t := after (exec (.decHuff 1 0) (gray d1 a4 [0xA0]))
    (t.result, t.res, t.bitpos) = (.ok, 0x11, 3) := by decide +kernel

/-- V-HUF7. -/
theorem test_decHuff_bad_code :
    let t := after (exec (.decHuff 1 0) (gray d1 a4 [0xFF, 0x00, 0xFF, 0x00]))
    (t.result, t.err) = (.error, 0x40003203) := by decide +kernel

/-- V-BIT1's second read: across a stuffed byte. -/
theorem test_getBits :
    let t := after (exec (.getBits 8) { gray d1 a1 [0xFF, 0x00, 0xA5, 0xFF, 0xFF, 0xD3] with bitpos := 4 })
    (t.result, t.res, t.bitpos) = (.ok, 0xFA, 12) := by decide +kernel

/-- V-BIT5: fill, then a marker. -/
theorem test_getBits_exhausted :
    (after (exec (.getBits 1) (gray d1 a1 [0xFF, 0xFF, 0xD9]))).err = 0x44003003 := by decide +kernel

/-- V-EXT1. -/
theorem test_getExt : (after (exec (.getExt 3) (gray d1 a1 [0x60]))).res = 0xFFFFFFFC := by decide +kernel

/-- V-EXT6. -/
theorem test_getExt_positive : (after (exec (.getExt 15) (gray d1 a1 [0x80, 0x00]))).res = 16384 := by decide +kernel

/-- V-BLK4. -/
theorem test_decBlock :
    let t := after (exec (.decBlock 0) (gray d1 a3 [0x64, 0x44, 0x83, 0xFF, 0xD9]))
    (t.result, t.res, at64 t.coef 0, at64 t.coef 51, t.bitpos, t.pred.c0) = (.ok, 64, 25, 0xFFFF, 23, 25) := by
  decide +kernel

/-- V-BLK3. -/
theorem test_decBlock_overflow :
    (after (exec (.decBlock 0) (gray d1 a3 [0x64, 0x44, 0x47, 0xFF, 0xD9]))).err = 0x4C003303 := by decide +kernel

/-- R234's example, P1. -/
theorem test_decMcu :
    (decoded.result, decoded.mcucnt, decoded.res, decoded.bitpos, Plane.sample? decoded.planes.c0 7 7) =
      (.ok, 1, 1, 7, some 178) := by decide +kernel

/-- R234: the order of a 4:2:0 MCU is Y00, Y10, Y01, Y11, Cb, Cr; MCU 1 of a frame two MCUs wide. -/
theorem test_mcuBlocks : interleaved.mcuBlocks 1 =
    [⟨0, 0, 2, 0⟩, ⟨0, 0, 3, 0⟩, ⟨0, 0, 2, 1⟩, ⟨0, 0, 3, 1⟩, ⟨1, 1, 1, 0⟩, ⟨2, 2, 1, 0⟩] := by decide +kernel

/-- V-MCU4. -/
theorem test_decMcu_restart :
    (after (exec .decMcu (restarting 0 [0xFF, 0xD1, 0x65]))).err = 0x50003603 := by decide +kernel

/-- R235's example, P1. -/
theorem test_scanEnd :
    (ended.result, ended.marker, ended.res, ended.scanact, ended.bitpos) = (.ok, 0xD9, 3, false, 8) := by decide +kernel

/-- V-END5. -/
theorem test_scanEnd_restart :
    (after (exec .scanEnd { gray d1 a1 [0xFF, 0xD0] with mcucnt := 1 })).err = 0x54003903 := by decide +kernel

/-- R270's example. -/
theorem test_dequant :
    let t := after (exec (.dequant 0) { started [] with coef := ((Vector.replicate 64 0).set 0 25).set 1 0xFFFD })
    (t.result, at64 t.dq 0, at64 t.dq 1, at64 t.dq 2) = (.ok, 400, 0xFFFFFFD0, 0) := by decide +kernel

/-- V-IDCT15, rows 0 and 7. -/
theorem test_idct :
    let t := after (exec .idct { started [] with dq := ((Vector.replicate 64 0).set 0 400).set 1 0xFFFFFFD0 })
    t.samp.toList.take 8 = [170, 171, 173, 176, 180, 183, 185, 186] ∧
    t.samp.toList.drop 56 = [170, 171, 173, 176, 180, 183, 185, 186] := by decide +kernel

/-- V-IDCT14: an exact half is rounded up. -/
theorem test_idct_half :
    (after (exec .idct { started [] with dq := (Vector.replicate 64 0).set 0 (BitVec.ofInt 32 (-1020)) })).samp =
      Vector.replicate 64 1 := by decide +kernel

/-- R272's example. -/
theorem test_putBlock :
    let s := { started [] with arg := 1, samp := Vector.replicate 64 178, geom := ⟨⟨2, 1, 16, 8⟩, .reset, .reset⟩ }
    let t := after (exec (.putBlock 0) s)
    (t.result, Plane.sample? t.planes.c0 8 0, Plane.sample? t.planes.c0 15 7, Plane.sample? t.planes.c0 7 0) =
      (.ok, some 178, some 178, none) := by decide +kernel

/-- V-ROW3: the row lands at its offset. -/
theorem test_ccRow :
    let t := after (exec .ccRow { decoded with arg := 6 })
    (t.result, t.row, t.res, Memory.read t.outMem 5, Memory.read t.outMem 6, Memory.read t.outMem 29,
      Memory.read t.outMem 30) = (.ok, 1, 1, 0, 178, 178, 0) := by decide +kernel

/-- V-ROW4: no wrap-around. -/
theorem test_ccRow_out_range :
    let t := after (exec .ccRow { decoded with arg := 0xFFFFFFF0 })
    (t.result, t.pverr, t.row, t.outMem) = (.precond, 0x7000000D, 0, []) := by decide +kernel

/-- V-CC5, RGB. -/
theorem test_ccPix : (after (exec .ccPix { fresh [] with arg := 0x00152C96 })).res = 0x0001FF00 := by decide +kernel

/-- V-CC5, BGR. -/
theorem test_ccPix_bgr :
    (after (exec .ccPix { fresh [] with arg := 0x00152C96, corder := .bgr })).res = 0x0000FF01 := by decide +kernel

/-- A word placed by withFetchWord is the first command after reset (V-CTL7: CC_PIX with ARG 0). -/
theorem test_withFetchWord :
    (after (step (State.reset.withFetchWord 32 0x74000000))).res = 0x00008700 := by decide +kernel

/-! Witnesses: for each obligation with hypotheses, states and operands that meet them, clause by clause. -/

theorem witness_EncodeOfDecode : decode 0x18000101 = .ok (.rdBuf 1 1) := by decide +kernel

theorem witness_CommandWordChecks :
    ({ fresh [] with hostq := [cmdWrite 0] } : State).hostq = cmdWrite 0 :: [] ∧
    ¬ opAssigned 0x00000000 ∧ ¬ opAssigned 0x78000000 ∧ ¬ opAssigned 0xFFFFFFFF ∧
    (opAssigned 0x04000001 ∧ ¬ matchesRow 0x04000001) ∧ (opAssigned 0x77FFFFFF ∧ ¬ matchesRow 0x77FFFFFF) ∧
    decode 0x0C000002 = .ok (.start 2) ∧ (Instr.start 2).wf = false ∧ matchesRow 0x04000000 ∧ matchesRow 0x340000FF := by
  unfold opAssigned matchesRow
  decide +kernel

theorem witness_StepRunsDecodedCommand :
    ({ fresh [] with hostq := [.write 0x00 4 0x74000000] } : State).hostq = .write 0x00 4 0x74000000 :: [] ∧
    decode 0x74000000 = .ok .ccPix := by decide +kernel

theorem witness_BadFieldRefused :
    1 < (2#2).toNat ∧ 3 < (4#3).toNat ∧ ((3#3).toNat = 3 ∧ 2 < (3#6).toNat) ∧ 2 < (3#2).toNat ∧ 16 < (17#5).toNat ∧
    15 < (16#5).toNat ∧ (Instr.start 1).wf = true := by decide

theorem witness_HostRegisterAccesses :
    ({ fresh [] with hostq := [.write 0x04 4 7] } : State).hostq = .write 0x04 4 7 :: [] ∧
    ((0x08#8).toNat % 4 = 0 ∧ (0x08#8).toNat ≠ 0 ∧ (0x08#8).toNat ≠ 4 ∧
      ({ fresh [] with hostq := [.write 0x08 4 7] } : State).hostq = .write 0x08 4 7 :: []) ∧
    ((0xFC#8).toNat % 4 = 0 ∧ (0xFC#8).toNat ≠ 0 ∧ (0xFC#8).toNat ≠ 4) ∧
    ({ fresh [] with hostq := [.read 0x00 4] } : State).hostq = .read 0x00 4 :: [] ∧
    (((2 : Nat) ≠ 4 ∨ (0x04#8).toNat % 4 ≠ 0) ∧
      ({ fresh [] with hostq := [.write 0x04 2 7] } : State).hostq = .write 0x04 2 7 :: []) ∧
    (((4 : Nat) ≠ 4 ∨ (0x0D#8).toNat % 4 ≠ 0) ∧
      ({ fresh [] with hostq := [.read 0x0D 4] } : State).hostq = .read 0x0D 4 :: []) ∧
    (fresh []).hostq = [] := by decide +kernel

/-- The session lasts from SET_INPUT, also of length 0, through a fault, to FINISH or ABORT (R82). -/
theorem test_session :
    (after (exec .setInput State.reset)).inSession = true ∧ failed.inSession = true ∧
    (after (exec (.setFrame 12 1) State.reset)).inSession = false ∧
    (after (exec .abort failed)).inSession = false ∧ (after (exec .finish { ended with row := 8 })).inSession = false := by
  decide +kernel

theorem witness_InputFixedDuringSession :
    ({ fresh [] with hostq := [.supplyIn [2]] } : State).hostq = .supplyIn [2] :: [] ∧
    (fresh []).inSession = true ∧ State.reset.inSession = false ∧
    (∃ t, exec .setInput State.reset = .next t ∧ t.inSession = true) ∧
    ∃ t, exec .abort p1 = .next t ∧ p1.inSession = true ∧ t.inSession = false :=
  ⟨rfl, rfl, rfl, ⟨_, exec_after _ _, by decide +kernel⟩, ⟨_, exec_after _ _, by decide +kernel⟩⟩

theorem witness_RegisterMapReads : 0x48 ≤ (0x48#8).toNat ∧ 0x48 ≤ (0xFF#8).toNat := by decide

theorem witness_DecodeErrorEffects : ∃ t, exec (.setFrame 12 1) (fresh []) = .next t ∧ t.result = .error :=
  ⟨_, exec_after _ _, by decide +kernel⟩

/-- Every command that the state table refuses somewhere, in a state it is refused in (StateTableEnforced, CommandFront). -/
theorem witness_StateTableEnforced :
    (∀ i ∈ [Instr.setInput, .start 1, .setFrame 8 1, .setComp 2 1 1 0, .rdBuf 3 2],
      i.wf = true ∧ stateTable i failed.column = some .wrongState) ∧
    (∀ i ∈ [Instr.finish, .loadQt 0 0, .loadHt 0 0, .setDri, .setScanComp 0 2 0 0, .startScan 1],
      i.wf = true ∧ stateTable i p1.column = some .scanActive) ∧
    (∀ i ∈ [Instr.decHuff 0 0, .getBits 16, .getExt 15, .decBlock 0, .decMcu, .scanEnd],
      i.wf = true ∧ stateTable i (started []).column = some .noScan) ∧
    (∀ i ∈ [Instr.dequant 0, .idct, .putBlock 2, .ccRow],
      i.wf = true ∧ stateTable i (fresh []).column = some .wrongState) ∧
    (stateTable .ccPix failed.column = none ∧ stateTable .decMcu p1.column = none ∧
      PvCause.noScan ∈ [PvCause.wrongState, .scanActive, .noScan]) := by decide +kernel

theorem witness_FailedLeftOnlyByAbortOrSreset :
    failed.sess = .failed ∧ (∃ t, exec .ccPix failed = .next t) ∧ (Instr.ccPix ≠ .abort ∧ Instr.ccPix ≠ .sreset) ∧
    (Instr.idct.wf = true ∧ Instr.idct ≠ .abort ∧ Instr.idct ≠ .sreset ∧ Instr.idct ≠ .ccPix ∧
      ∃ t, exec .idct failed = .next t) ∧
    (∃ t, exec .abort failed = .next t) ∧ ∃ t, exec .sreset failed = .next t :=
  ⟨by decide +kernel, ⟨_, exec_after _ _⟩, by decide, ⟨by decide, by decide, by decide, by decide, _, exec_after _ _⟩,
   ⟨_, exec_after _ _⟩, ⟨_, exec_after _ _⟩⟩

theorem witness_LifecycleTransitions :
    (∃ t, exec .finish (fresh []) = .next t ∧ t.result = .precond) ∧
    (∃ t, exec (.setFrame 12 1) (fresh []) = .next t ∧ t.result = .error) ∧
    ∃ t, exec .idct (started []) = .next t ∧ t.result = .ok ∧ Instr.idct ≠ .sreset :=
  ⟨⟨_, exec_after _ _, by decide +kernel⟩, ⟨_, exec_after _ _, by decide +kernel⟩,
   ⟨_, exec_after _ _, by decide +kernel, by decide⟩⟩

theorem witness_FlagWriters :
    (∃ t, exec (.startScan 1) (after (exec (.setScanComp 0 0 0 0) (started []))) = .next t ∧
      (after (exec (.setScanComp 0 0 0 0) (started []))).scanact = false ∧ t.scanact = true) ∧
    (∃ t, exec .abort p1 = .next t ∧ p1.scanact = true ∧ t.scanact = false) ∧
    (∃ t, exec (.setFrame 8 1) { fresh [] with arg := 0x00080008 } = .next t ∧ (fresh []).frameset = false ∧
      t.frameset = true) ∧
    ∃ t, exec .sreset p1 = .next t ∧ p1.frameset = true ∧ t.frameset = false :=
  ⟨⟨_, exec_after _ _, by decide +kernel⟩, ⟨_, exec_after _ _, by decide +kernel⟩,
   ⟨_, exec_after _ _, by decide +kernel⟩, ⟨_, exec_after _ _, by decide +kernel⟩⟩

theorem witness_ProgressRegistersWriters :
    (∃ t, exec .decMcu p1 = .next t ∧ t.result = .ok ∧ t.res ≠ p1.res ∧ t.bitpos ≠ p1.bitpos ∧ t.mcucnt ≠ p1.mcucnt) ∧
    (∃ t, exec .decMcu (restarting 7 [0xFF, 0xD7, 0x65]) = .next t ∧ t.result = .ok ∧ t.seg ≠ 0) ∧
    ∃ t, exec .ccRow decoded = .next t ∧ t.result = .ok ∧ t.row ≠ decoded.row :=
  ⟨⟨_, exec_after _ _, by decide +kernel⟩, ⟨_, exec_after _ _, by decide +kernel⟩, ⟨_, exec_after _ _, by decide +kernel⟩⟩

theorem witness_OnlyCcRowWritesOut : ∃ t, exec .decMcu p1 = .next t ∧ Instr.decMcu ≠ .ccRow :=
  ⟨_, exec_after _ _, by decide⟩

theorem witness_TablesChangeOnlyByLoad :
    (∃ t, exec (.loadHt 0 3) (fresh ([1] ++ List.replicate 15 0 ++ [5])) = .next t ∧
      t.ht 0 3 ≠ (fresh ([1] ++ List.replicate 15 0 ++ [5])).ht 0 3) ∧
    ∃ t, exec (.loadQt 0 3) (fresh (List.replicate 64 16)) = .next t ∧
      t.quant 3 ≠ (fresh (List.replicate 64 16)).quant 3 :=
  ⟨⟨_, exec_after _ _, by decide +kernel⟩, ⟨_, exec_after _ _, by decide +kernel⟩⟩

theorem witness_ResetAndSreset :
    ({ p1 with hostq := [.hardwareReset] } : State).hostq = .hardwareReset :: [] := rfl

theorem witness_SetInputTakesLength : (fresh []).sess = .empty := by decide +kernel

theorem witness_StartOpensSession :
    ((1#2).toNat ≤ 1 ∧ (fresh []).sess = .empty ∧ (fresh []).frameset = false) ∧
    (let s := { framed d1 a1 [] with comp := .all .reset };
      s.sess = .empty ∧ s.frameset = true ∧ ∃ c < s.nf.toNat, (s.cfg c).cset = false) ∧
    (let s := { framed d1 a1 [] with qt := .all .reset };
      s.sess = .empty ∧ s.frameset = true ∧ (∀ c < s.nf.toNat, (s.cfg c).cset = true) ∧
      ∃ c < s.nf.toNat, (s.quant (s.cfg c).tq).qvalid = false) ∧
    (let s := colour 17 9 (2, 2) (1, 1) (1, 1);
      s.sess = .empty ∧ s.frameset = true ∧ 1 ≤ s.nf.toNat ∧
      ∀ c < s.nf.toNat, (s.cfg c).cset = true ∧ (s.quant (s.cfg c).tq).qvalid = true) := by decide +kernel

theorem witness_FinishClosesSession :
    (p1.sess = .started ∧ p1.scanact = true) ∧
    (ended.sess = .started ∧ ended.scanact = false ∧ ended.row.toNat < ended.height.toNat) ∧
    (let s := { started [] with row := 8 };
      s.sess = .started ∧ s.scanact = false ∧ s.height.toNat ≤ s.row.toNat ∧ s.marker ≠ 0xD9) ∧
    (let s := { ended with row := 8 };
      s.sess = .started ∧ s.scanact = false ∧ s.height.toNat ≤ s.row.toNat ∧ s.marker = 0xD9) := by decide +kernel

theorem witness_AbortNeverFails :
    p1.sess = .started ∧ failed.sess = .failed ∧ (fresh []).sess = .empty ∧
    (after (exec .finish { ended with row := 8 })).sess = .finished ∧ (after (exec .abort p1)).sess = .aborted := by
  decide +kernel

theorem witness_RdBufReadsElement :
    (∀ sel ∈ [0#3, 1, 2], sel.toNat ≤ 3 ∧ (sel.toNat = 3 → (63#6).toNat ≤ 2)) ∧
    ((3#3).toNat ≤ 3 ∧ ((3#3).toNat = 3 → (2#6).toNat ≤ 2)) ∧ p1.sess ≠ .failed := by decide +kernel

theorem witness_LoadQtLoadsTable :
    (fresh []).sess = .empty ∧ ((started []).sess = .started ∧ (started []).scanact = false) ∧ 1 < (2#4).toNat ∧
    ((1#4).toNat ≤ 1 ∧ 3 < (4#4).toNat) ∧
    (let s := { fresh [] with inLen := 101, arg := 38 };
      (0#4).toNat ≤ 1 ∧ (3#4).toNat ≤ 3 ∧ s.inLen.toNat < s.arg.toNat + 64 * ((0#4).toNat + 1)) ∧
    (let s := { fresh [] with inLen := 101, arg := 37 };
      s.arg.toNat + 64 * ((0#4).toNat + 1) ≤ s.inLen.toNat) ∧
    (let s := { fresh [] with inLen := 128 };
      s.arg.toNat + 64 * ((1#4).toNat + 1) ≤ s.inLen.toNat) := by decide +kernel

theorem witness_LoadHtBuildsTable :
    let s := fresh ([1] ++ List.replicate 15 0 ++ [15])
    s.sess = .empty ∧ (0#4).toNat ≤ 1 ∧ (3#4).toNat ≤ 3 ∧
    (∀ l, (h : l < 16) → (counts [1])[l] = s.inByte (s.arg.toNat + l)) ∧
    1 = ((counts [1]).toList.map BitVec.toNat).sum ∧ s.arg.toNat + 16 + 1 ≤ s.inLen.toNat ∧
    codesFit (counts [1]) = true ∧ ∀ j < 1, (s.inByte (s.arg.toNat + 16 + j)).toNat ≤ 15 := by decide +kernel

theorem witness_LoadHtChecksInOrder :
    let m := fun (s : State) => ((s.huffCounts s.arg.toNat).toList.map BitVec.toNat).sum
    let fits := fun (s : State) => codesFit (s.huffCounts s.arg.toNat)
    1 < (2#4).toNat ∧ 3 < (4#4).toNat ∧ (fresh (List.replicate 15 1)).inLen.toNat < 0 + 16 ∧
    (let s := fresh (List.replicate 14 0 ++ [2, 255]);
      16 ≤ s.inLen.toNat ∧ 256 < m s) ∧
    (let s := fresh (List.replicate 14 0 ++ [1, 255]);
      16 ≤ s.inLen.toNat ∧ m s ≤ 256 ∧ s.inLen.toNat < 0 + 16 + m s) ∧
    (let s := fresh ([2] ++ List.replicate 15 0 ++ [0, 1]);
      0 + 16 + m s ≤ s.inLen.toNat ∧ m s ≤ 256 ∧ fits s = false) ∧
    (let s := fresh ([1] ++ List.replicate 15 0 ++ [16]);
      0 + 16 + m s ≤ s.inLen.toNat ∧ m s ≤ 256 ∧ fits s = true ∧ ∃ j < m s, 15 < (s.inByte (0 + 16 + j)).toNat) := by
  decide +kernel

theorem witness_SetFrameRecordsFrame :
    (fresh []).sess = .empty ∧ (12#8).toNat ≠ 8 ∧ (0#8).toNat = 0 ∧ ((2#8).toNat ≠ 0 ∧ ¬ ((2#8).toNat = 1 ∨ (2#8).toNat = 3)) ∧
    (0x00080000#32).toNat % 2 ^ 16 = 0 ∧ ((0x00000008#32).toNat % 2 ^ 16 ≠ 0 ∧ (0x00000008#32).toNat / 2 ^ 16 = 0) ∧
    ((0xFFFF0001#32).toNat % 2 ^ 16 ≠ 0 ∧ (0xFFFF0001#32).toNat / 2 ^ 16 ≠ 0) := by decide +kernel

theorem witness_SetCompRecordsComponent :
    let f := framed d1 a1 []
    ((fresh []).sess = .empty ∧ (fresh []).frameset = false) ∧
    (f.sess = .empty ∧ f.frameset = true ∧ f.nf.toNat ≤ (1#2).toNat) ∧
    ((0#2).toNat < f.nf.toNat ∧ ¬ (1 ≤ (0#4).toNat) ∧ ¬ ((5#4).toNat ≤ 4)) ∧
    (1 ≤ (1#4).toNat ∧ (4#4).toNat ≤ 4 ∧ 3 < (4#8).toNat ∧ (3#8).toNat ≤ 3) := by decide +kernel

theorem witness_SetDriTakesInterval :
    (fresh []).sess = .empty ∧ (started []).sess = .started ∧ (started []).scanact = false := by decide +kernel

theorem witness_SetScanCompRecordsSlot :
    let s := started []
    s.sess = .started ∧ s.scanact = false ∧ s.nf.toNat ≤ (1#2).toNat ∧
    ((0#2).toNat < s.nf.toNat ∧ 3 < (4#4).toNat ∧ (3#4).toNat ≤ 3) := by decide +kernel

theorem witness_StartScanBeginsScan :
    (let s := after (exec (.setScanComp 0 0 0 0) (started []));
      s.sess = .started ∧ s.scanact = false ∧ 1 ≤ s.nf.toNat ∧
      ∀ i < 1, (s.slot i).sset = true ∧ (s.ht 0 (s.slot i).td).hvalid = true ∧ (s.ht 1 (s.slot i).ta).hvalid = true) ∧
    (let s := { after (exec (.start 0) (colour 17 9 (2, 2) (1, 1) (1, 1))) with
        sc := ⟨⟨true, 0, 0, 0⟩, ⟨true, 1, 0, 0⟩, ⟨true, 2, 0, 0⟩, .reset⟩ };
      s.sess = .started ∧ s.scanact = false ∧ 3 ≤ s.nf.toNat ∧
      (∀ i < 3, (s.slot i).sset = true ∧ (s.ht 0 (s.slot i).td).hvalid = true ∧ (s.ht 1 (s.slot i).ta).hvalid = true) ∧
      (∀ i < 2, s.slotComp i < s.slotComp (i + 1)) ∧
      ((List.range 3).map fun i => s.hOf (s.slotComp i) * s.vOf (s.slotComp i)).sum ≤ 10) := by decide +kernel

theorem witness_StartScanChecksInOrder :
    let c := fun (sc : Quad ScanSlot) (h v : BitVec 4) =>
      ({ after (exec (.start 0) (colour 17 9 (h, v) (1, 1) (1, 1))) with sc := sc } : State)
    let big := fun (s : State) => ((List.range 2).map fun i => s.hOf (s.slotComp i) * s.vOf (s.slotComp i)).sum
    ((started []).sess = .started ∧ (started []).scanact = false ∧ (started []).nf.toNat < (2#8).toNat ∧ 4 < (5#8).toNat) ∧
    (¬ (started []).nf.toNat < 1 ∧ ∃ i < 1, ((started []).slot i).sset = false) ∧
    (let s := c ⟨⟨true, 1, 0, 0⟩, ⟨true, 1, 0, 0⟩, .reset, .reset⟩ 2 2;
      (∀ i < 2, (s.slot i).sset = true) ∧ s.slotComp 1 ≤ s.slotComp 0) ∧
    (let s := c ⟨⟨true, 0, 0, 0⟩, ⟨true, 1, 0, 0⟩, .reset, .reset⟩ 4 3;
      s.slotComp 0 < s.slotComp 1 ∧ 10 < big s) ∧
    (let s := c ⟨⟨true, 0, 0, 0⟩, ⟨true, 1, 0, 3⟩, .reset, .reset⟩ 3 3;
      s.slotComp 0 < s.slotComp 1 ∧ big s = 10 ∧ ∃ i < 2, (s.ht 1 (s.slot i).ta).hvalid = false) := by decide +kernel

theorem witness_SegmentUnstuffs :
    (let bytes := stuff [0x65, 0xFF] ++ List.replicate 2 0xFF ++ [0xD9];
      let s := fresh [0x65, 0xFF, 0x00, 0xFF, 0xFF, 0xD9]
      s.seg.toNat + bytes.length ≤ s.inLen.toNat ∧
      ∀ i, (h : i < bytes.length) → s.inByte (s.seg.toNat + i) = bytes[i]) ∧
    (let bytes := stuff [0x65] ++ List.replicate 1 0xFF;
      let s := fresh [0x65, 0xFF]
      s.seg.toNat + bytes.length = s.inLen.toNat ∧
      ∀ i, (h : i < bytes.length) → s.inByte (s.seg.toNat + i) = bytes[i]) := by decide +kernel

theorem built_d1 : d1.Built true := by unfold HuffTable.Built; decide +kernel
theorem built_a1 : a1.Built false := by unfold HuffTable.Built; decide +kernel
theorem built_reset (dc : Bool) : HuffTable.reset.Built dc := by
  unfold HuffTable.Built
  intro h
  exact absurd h (by decide)

/-- A table whose one code is sixteen bits long. -/
def long : HuffTable := table (List.replicate 15 0 ++ [1]) [9]

theorem built_long : long.Built false := by unfold HuffTable.Built; decide +kernel

theorem witness_CanonicalCodeDecodes :
    (d1.hvalid = true ∧ d1.Built true ∧ 0 < d1.bitsAt 1 ∧ 0 + 1 ≤ (⟨[0x65], .endOfInput⟩ : Segment).bits ∧
      (⟨[0x65], .endOfInput⟩ : Segment).fieldValue 0 1 = d1.firstAt 1 + 0) ∧
    (long.hvalid = true ∧ long.Built false ∧ 0 < long.bitsAt 16 ∧ 0 + 16 ≤ (⟨[0, 0], .endOfInput⟩ : Segment).bits ∧
      (⟨[0, 0], .endOfInput⟩ : Segment).fieldValue 0 16 = long.firstAt 16 + 0) :=
  ⟨⟨by decide +kernel, built_d1, by decide +kernel⟩, ⟨by decide +kernel, built_long, by decide +kernel⟩⟩

theorem witness_DecHuffDecodesSymbol :
    (p1.sess = .started ∧ p1.scanact = true ∧ (p1.ht 1 3).hvalid = false) ∧
    (p1.ht 0 0 = d1 ∧ d1.Built true ∧ d1.hvalid = true ∧ 0 < d1.bitsAt 1 ∧ p1.bitpos.toNat + 1 ≤ p1.segment.bits ∧
      p1.segment.fieldValue p1.bitpos.toNat 1 = d1.firstAt 1 + 0) :=
  ⟨by decide +kernel, by decide +kernel, built_d1, by decide +kernel⟩

theorem witness_DecHuffFaults :
    (let s := gray d1 a1 [0xFF, 0x00, 0xFF, 0x00];
      s.sess = .started ∧ s.scanact = true ∧ (s.ht 1 0).hvalid = true ∧
      (∀ l < 17, 1 ≤ l → ¬ (0 < (s.ht 1 0).bitsAt l ∧ (s.ht 1 0).firstAt l ≤ s.segment.fieldValue s.bitpos.toNat l ∧
        s.segment.fieldValue s.bitpos.toNat l < (s.ht 1 0).firstAt l + (s.ht 1 0).bitsAt l)) ∧
      s.bitpos.toNat + 16 ≤ s.segment.bits) ∧
    (let s := gray d1 a1 [0xFF, 0x00, 0xFF, 0xD9];
      (∀ l < 9, 1 ≤ l → ¬ (0 < (s.ht 1 0).bitsAt l ∧ (s.ht 1 0).firstAt l ≤ s.segment.fieldValue s.bitpos.toNat l ∧
        s.segment.fieldValue s.bitpos.toNat l < (s.ht 1 0).firstAt l + (s.ht 1 0).bitsAt l)) ∧
      s.segment.bits = s.bitpos.toNat + 8) ∧
    (gray d1 a1 []).segment.bits = (gray d1 a1 []).bitpos.toNat + 0 := by decide +kernel

theorem witness_GetBitsTakesField :
    let s := gray d1 a1 [0xFF, 0x00, 0xA5]
    s.sess = .started ∧ s.scanact = true ∧ (16#5).toNat ≤ 16 ∧ s.bitpos.toNat + (16#5).toNat ≤ s.segment.bits ∧
    (0#5).toNat = 0 ∧
    (let e := { s with bitpos := 16 };
      0 < (1#5).toNat ∧ e.segment.bits < e.bitpos.toNat + (1#5).toNat) := by decide +kernel

theorem witness_GetExtExtendsField :
    let s := gray d1 a1 [0x80, 0x00]
    s.sess = .started ∧ s.scanact = true ∧ (15#5).toNat ≤ 15 ∧ s.bitpos.toNat + (15#5).toNat ≤ s.segment.bits ∧
    (0#5).toNat = 0 ∧
    (let e := { s with bitpos := 16 };
      0 < (1#5).toNat ∧ e.segment.bits < e.bitpos.toNat + (1#5).toNat) := by decide +kernel

theorem noCode {g : Segment} {t : HuffTable} {pos n : Nat}
    (h : ∀ l < n + 1, 1 ≤ l → ¬ (0 < t.bitsAt l ∧ t.firstAt l ≤ g.fieldValue pos l ∧
      g.fieldValue pos l < t.firstAt l + t.bitsAt l)) : g.NoCode t pos n :=
  fun l h1 h2 => h l (by omega) h1

/-- A block whose DC symbol is d1's and whose AC symbols are a3's: DC 25, a ZRL from bit 6, and bits 00 before the given bytes. -/
def coded (bytes : List Byte) : State := gray d1 a3 ([0x64, 0x44] ++ bytes)

/-- Where the AC loop of `coded` starts. -/
def codedStart : BlockRead := ⟨(Vector.replicate 64 0).set 0 25, 6, 1⟩

/-- `coded` after two ZRLs. -/
def coded33 : BlockRead := ⟨codedStart.zzv, 14, 33⟩

/-- The DC part of a block (DecBlockDecodesSlot): it is read; it has no code, or ends; its difference field is cut off. -/
theorem witness_DecBlockDecodesSlot_dc :
    (let s := coded [];
      s.sess = .started ∧ s.scanact = true ∧ (0#2).toNat < s.ns.toNat ∧ s.ht 0 (s.slot 0).td = d1 ∧ s.ht 1 (s.slot 0).ta = a3 ∧
      s.segment.decodeSym d1 s.bitpos.toNat = .ok (5, 1) ∧ 1 + (5#8).toNat ≤ s.segment.bits ∧
      BitVec.ofInt 16 ((s.pred.get (s.slotComp 0)).toInt + extend (s.segment.fieldValue 1 5) 5) = 25) ∧
    (gray d1 a3 [0x80, 0x00]).segment.SymFaults d1 0 .badCode ∧
    (gray d1 a3 []).segment.SymFaults d1 0 .exhaustedEof ∧
    (gray d1 a3 [0x80, 0xFF, 0xD9]).segment.SymFaults d1 0 .exhaustedMarker ∧
    ((gray d1 a3 [0x00]).segment.decodeSym d1 3 = .ok (5, 4) ∧ (gray d1 a3 [0x00]).segment.bits < 4 + (5#8).toNat) :=
  ⟨⟨by decide +kernel, by decide +kernel, by decide +kernel, by decide +kernel, by decide +kernel, rfl, by decide +kernel,
      by decide +kernel⟩,
   .inl ⟨rfl, by decide +kernel, noCode (by decide +kernel)⟩,
   .inr ⟨0, by decide, by decide +kernel, by decide +kernel, .inl rfl, noCode (by decide +kernel)⟩,
   .inr ⟨8, by decide, by decide +kernel, by decide +kernel, .inr (by decide +kernel), noCode (by decide +kernel)⟩,
   rfl, by decide +kernel⟩

/-- Two ZRLs take the loop of `coded` from position 1 to 33. -/
theorem coded_33 (bytes : List Byte) (h : bytes ∈ [[0xA3], [0x47], [0x48], [0x4C], [0x00], [], [0xAF], [0xBF, 0x80, 0x80]]) :
    Relation.ReflTransGen ((coded bytes).segment.AcStep a3) codedStart coded33 := by
  simp only [List.mem_cons, List.not_mem_nil, or_false] at h
  rcases h with rfl | rfl | rfl | rfl | rfl | rfl | rfl | rfl <;>
    exact .tail (.single (Segment.acStep_zrl (by decide) (p := 10) rfl)) (Segment.acStep_zrl (by decide) rfl)

/-- A third ZRL takes it to position 49. -/
theorem coded_49 (bytes : List Byte) (h : bytes ∈ [[0x47], [0x48], [0x4C]]) :
    Relation.ReflTransGen ((coded bytes).segment.AcStep a3) codedStart ⟨codedStart.zzv, 18, 49⟩ := by
  refine .tail (coded_33 bytes ?_) ?_ <;> simp only [List.mem_cons, List.not_mem_nil, or_false] at h <;>
    rcases h with rfl | rfl | rfl <;> first | decide | exact Segment.acStep_zrl (by decide) rfl

/-- A coefficient takes it to position 48. -/
theorem coded_48 (bytes : List Byte) (h : bytes ∈ [[0xA3], [0xAF], [0xBF, 0x80, 0x80]]) :
    Relation.ReflTransGen ((coded bytes).segment.AcStep a3) codedStart
      ⟨codedStart.zzv.setIfInBounds 47 1, 19, 48⟩ := by
  refine .tail (coded_33 bytes ?_) ?_ <;> simp only [List.mem_cons, List.not_mem_nil, or_false] at h <;>
    rcases h with rfl | rfl | rfl <;> first
      | decide
      | exact ⟨by decide, 0xE1, 18, rfl, .inr ⟨by decide, by decide, by decide +kernel, by decide +kernel⟩⟩

/-- The AC loop (DecBlockDecodesSlot) where its clauses meet: a ZRL from position 48 reaches 64 and ends the block, one from 49
overflows (V-BLK3); a coefficient at position 63 ends the block, one at 64 overflows; an end of block; the end of the segment in a
symbol and in a field; bits that are no code. -/
theorem witness_DecBlockDecodesSlot :
    ((p1.sess = .started ∧ p1.scanact = true ∧ p1.ns.toNat ≤ (1#2).toNat ∧ (0#2).toNat < p1.ns.toNat) ∧
      ∃ r, p1.decodeBlock (0#2).toNat = .ok r) ∧
    (∃ m, Relation.ReflTransGen ((coded [0xA3]).segment.AcStep a3) codedStart m ∧ m.kend = 48 ∧
      ∃ r, (coded [0xA3]).segment.AcStep a3 m r ∧ r.kend = 64 ∧ (coded [0xA3]).segment.AcEnds a3 r r) ∧
    (∃ m, Relation.ReflTransGen ((coded [0x47]).segment.AcStep a3) codedStart m ∧ m.kend = 49 ∧
      (coded [0x47]).segment.AcFaults a3 m .coefOverflow) ∧
    (∃ m, Relation.ReflTransGen ((coded [0x48]).segment.AcStep a3) codedStart m ∧ m.kend + 14 = 63 ∧
      ∃ r, (coded [0x48]).segment.AcStep a3 m r ∧ at64 r.zzv 63 = 0xFFFF ∧ r.kend = 64 ∧
        (coded [0x48]).segment.AcEnds a3 r r) ∧
    (∃ m, Relation.ReflTransGen ((coded [0x4C]).segment.AcStep a3) codedStart m ∧ m.kend + 15 = 64 ∧
      (coded [0x4C]).segment.AcFaults a3 m .coefOverflow) ∧
    (∃ m, Relation.ReflTransGen ((coded [0x00]).segment.AcStep a3) codedStart m ∧
      ∃ r, (coded [0x00]).segment.AcEnds a3 m r ∧ r.kend = 33 ∧ r.pos = 18) ∧
    (∃ m, Relation.ReflTransGen ((coded []).segment.AcStep a3) codedStart m ∧
      (coded []).segment.AcFaults a3 m .exhaustedEof) ∧
    (∃ m, Relation.ReflTransGen ((coded [0xAF]).segment.AcStep a3) codedStart m ∧
      (coded [0xAF]).segment.AcFaults a3 m .exhaustedEof) ∧
    (∃ m, Relation.ReflTransGen ((coded [0xBF, 0x80, 0x80]).segment.AcStep a3) codedStart m ∧
      (coded [0xBF, 0x80, 0x80]).segment.AcFaults a3 m .badCode) := by
  refine ⟨⟨by decide +kernel, exists_ok (by decide +kernel)⟩, ?_, ?_, ?_, ?_, ?_, ?_, ?_, ?_⟩
  · exact ⟨_, coded_48 _ (by decide), rfl, _, Segment.acStep_zrl (p := 23) (by decide) rfl, rfl, .inl ⟨by decide, rfl⟩⟩
  · exact ⟨_, coded_49 _ (by decide), rfl, by decide, .inr ⟨0xF0, 22, rfl, .inl ⟨rfl, by decide, rfl⟩⟩⟩
  · exact ⟨_, coded_49 _ (by decide), rfl, _,
      Segment.acStep_coef (rs := 0xE1) (p := 22) rfl (by decide) (by decide) (by decide +kernel),
      by decide +kernel, rfl, .inl ⟨by decide, rfl⟩⟩
  · exact ⟨_, coded_49 _ (by decide), rfl, by decide, .inr ⟨0xF1, 22, rfl, .inr (.inl ⟨by decide, by decide, rfl⟩)⟩⟩
  · exact ⟨_, coded_33 _ (by decide), _, .inr ⟨by decide, 0x00, 18, rfl, by decide, by decide, rfl⟩, rfl, rfl⟩
  · exact ⟨_, coded_33 _ (by decide), by decide,
      .inl (.inr ⟨2, by decide, by decide +kernel, by decide +kernel, .inr (by decide +kernel), noCode (by decide +kernel)⟩)⟩
  · exact ⟨_, coded_48 _ (by decide), by decide,
      .inr ⟨0x02, 23, rfl, .inr (.inr ⟨by decide, by decide, by decide +kernel, by decide +kernel⟩)⟩⟩
  · exact ⟨_, coded_48 _ (by decide), by decide, .inl (.inl ⟨rfl, by decide +kernel, noCode (by decide +kernel)⟩)⟩

theorem witness_DecBlockDcOnly :
    (p1.sess = .started ∧ p1.scanact = true ∧ (0#2).toNat < p1.ns.toNat) ∧
    p1.segment.decodeSym (p1.ht 0 (p1.slot 0).td) p1.bitpos.toNat = .ok (5, 1) ∧
    1 + (5#8).toNat ≤ p1.segment.bits ∧
    p1.segment.decodeSym (p1.ht 1 (p1.slot 0).ta) (1 + (5#8).toNat) = .ok (0, 7) ∧
    (0#8).toNat % 16 = 0 ∧ (0#8).toNat ≠ 0xF0 :=
  ⟨by decide +kernel, by rfl, by decide +kernel, by rfl, by decide, by decide⟩

theorem witness_DecMcuCountsMcu :
    (decoded.sess = .started ∧ decoded.scanact = true ∧ decoded.mcutot.toNat ≤ decoded.mcucnt.toNat) ∧
    (p1.sess = .started ∧ p1.scanact = true ∧ p1.mcucnt.toNat < p1.mcutot.toNat ∧ ¬ 0 < p1.ri.toNat ∧
      ∃ s2, (p1.mcuBlocks p1.mcucnt.toNat).foldlM State.mcuBlock p1 = .ok s2) ∧
    (∃ s1, (restarting 7 [0xFF, 0xD7, 0x65]).restart = .ok s1) ∧
    (let s := gray d1 a3 [0x64, 0x44, 0x47]
     (s.sess = .started ∧ s.scanact = true ∧ s.mcucnt.toNat < s.mcutot.toNat ∧ ¬ 0 < s.ri.toNat) ∧
      s.mcuBlocks s.mcucnt.toNat = [] ++ ⟨0, 0, 0, 0⟩ :: [] ∧ ([] : List McuBlock).foldlM State.mcuBlock s = .ok s ∧
      s.decodeBlock 0 = .error (.decodeError .coefOverflow)) :=
  ⟨by decide +kernel, ⟨by decide +kernel, by decide +kernel, by decide +kernel, by decide +kernel,
    exists_ok (by decide +kernel)⟩, exists_ok (by decide +kernel), by decide +kernel, by decide +kernel, rfl, by rfl⟩

theorem witness_RestartBetweenIntervals :
    let due := fun (s : State) => s.sess = .started ∧ s.scanact = true ∧ s.mcucnt.toNat < s.mcutot.toNat ∧ 0 < s.ri.toNat ∧
      0 < s.mcucnt.toNat ∧ s.mcucnt.toNat % s.ri.toNat = 0
    let aligned := fun (s : State) => 8 * ((s.bitpos.toNat + 7) / 8)
    (due (restarting 0 [0x00, 0xFF, 0xD0]) ∧
      aligned (restarting 0 [0x00, 0xFF, 0xD0]) < (restarting 0 [0x00, 0xFF, 0xD0]).segment.bits) ∧
    ((restarting 0 []).segment.bits ≤ aligned (restarting 0 []) ∧ (restarting 0 []).segment.stop = .endOfInput) ∧
    ((restarting 0 [0xFF, 0xD1]).segment.stop = .marker 0xD1 0 2 ∧ (0xD1#8).toNat ≠ 0xD0 + (0#3).toNat) ∧
    ((restarting 7 [0xFF, 0xD7]).segment.stop = .marker 0xD7 0 2 ∧ (0xD7#8).toNat = 0xD0 + (7#3).toNat ∧
      (restarting 7 [0xFF, 0xD7]).segment.bits ≤ aligned (restarting 7 [0xFF, 0xD7])) := by decide +kernel

theorem witness_ScanEndAtMarker :
    let aligned := fun (s : State) => 8 * ((s.bitpos.toNat + 7) / 8)
    let full := fun (bytes : List Byte) => ({ gray d1 a1 bytes with mcucnt := 1 } : State)
    (p1.sess = .started ∧ p1.scanact = true ∧ p1.mcucnt.toNat < p1.mcutot.toNat) ∧
    ((full [0]).mcutot.toNat ≤ (full [0]).mcucnt.toNat ∧ aligned (full [0]) < (full [0]).segment.bits) ∧
    ((full [0xFF]).segment.bits ≤ aligned (full [0xFF]) ∧ (full [0xFF]).segment.stop = .endOfInput) ∧
    ((full [0xFF, 0xD0]).segment.stop = .marker 0xD0 0 2 ∧ 0xD0 ≤ (0xD0#8).toNat ∧ (0xD0#8).toNat ≤ 0xD7) ∧
    ((full [0xFF, 0xD7]).segment.stop = .marker 0xD7 0 2 ∧ 0xD0 ≤ (0xD7#8).toNat ∧ (0xD7#8).toNat ≤ 0xD7) ∧
    ((full [0xFF, 0xD8]).segment.stop = .marker 0xD8 0 2 ∧ 0xD7 < (0xD8#8).toNat) ∧
    ((full [0xFF, 0xCF]).segment.stop = .marker 0xCF 0 2 ∧ (0xCF#8).toNat < 0xD0) := by decide +kernel

theorem witness_DequantMultipliesExactly :
    (started []).sess = .started ∧ ((started []).quant 3).qvalid = false ∧ ((started []).quant 0).qvalid = true := by
  decide +kernel

theorem witness_IdctComputesSamples : (started []).sess = .started := by decide +kernel

theorem witness_IdctDcOnlyAccuracy :
    (let dq : Vector (BitVec 32) 64 := (Vector.replicate 64 0).set 0 262143;
      (∀ i < 64, 0 < i → at64 dq i = 0) ∧ -262144 ≤ (at64 dq 0).toInt ∧ (at64 dq 0).toInt ≤ 262143) ∧
    (let dq : Vector (BitVec 32) 64 := (Vector.replicate 64 0).set 0 (BitVec.ofInt 32 (-262144));
      -262144 ≤ (at64 dq 0).toInt ∧ (at64 dq 0).toInt ≤ 262143) := by decide +kernel

theorem witness_PutBlockStoresSamples :
    let s := started []
    s.sess = .started ∧ (2#2).toNat ≤ 2 ∧ s.nf.toNat ≤ (1#2).toNat ∧
    ((0#2).toNat < s.nf.toNat ∧ (s.geom.get 0).pbw ≤ (0x00000001#32).toNat % 2 ^ 16 ∧
      (s.geom.get 0).pbh ≤ (0x00010000#32).toNat / 2 ^ 16) ∧
    (0 % 2 ^ 16 < (s.geom.get 0).pbw ∧ 0 / 2 ^ 16 < (s.geom.get 0).pbh) := by decide +kernel

theorem witness_CcRowWritesRow :
    (let s := { decoded with row := 8 };
      s.sess = .started ∧ s.height.toNat ≤ s.row.toNat) ∧
    (let s := { decoded with arg := 41 };
      s.row.toNat < s.height.toNat ∧ s.outLen < s.arg.toNat + 3 * s.width.toNat) ∧
    (p1.row.toNat < p1.height.toNat ∧ p1.arg.toNat + 3 * p1.width.toNat ≤ p1.outLen ∧
      ∃ x < p1.width.toNat, ∃ c < p1.nf.toNat,
        Plane.sample? (p1.planes.get c) (p1.sampleX c x) (p1.sampleY c p1.row.toNat) = none) ∧
    (let s := { decoded with arg := 40 };
      s.row.toNat < s.height.toNat ∧ s.arg.toNat + 3 * s.width.toNat ≤ s.outLen ∧
      ∀ x < s.width.toNat, ∀ c < s.nf.toNat,
        (Plane.sample? (s.planes.get c) (s.sampleX c x) (s.sampleY c s.row.toNat)).isSome = true) := by decide +kernel

theorem witness_PixelNearest :
    (framed d1 a1 []).nf.toNat = 1 ∧ (colour 8 8 (2, 2) (1, 1) (1, 1)).nf.toNat = 3 := by decide +kernel

theorem witness_GrayPixelsHaveEqualChannels :
    decoded.nf.toNat = 1 ∧ ∃ t, exec .ccRow decoded = .next t ∧ t.result = .ok :=
  ⟨by decide +kernel, _, exec_after _ _, by decide +kernel⟩

/-- A legal state with a scan active: P1 after its START_SCAN. -/
theorem legal_p1 : p1.Legal where
  inForm := by decide +kernel
  outForm := by decide +kernel
  planeForm := by decide +kernel
  scanStarted := by decide +kernel
  errClear := by decide +kernel
  errSet := by decide +kernel
  unstarted := by decide +kernel
  rowBound := by decide +kernel
  frame := by decide +kernel
  factors := by decide +kernel
  opened := by decide +kernel
  geometry := by decide +kernel
  slots := by decide +kernel
  scan := by decide +kernel
  closed := by decide +kernel
  held := by decide +kernel
  unheld := by decide +kernel
  dcTables := by
    rw [show p1.htDc = ⟨d1, .reset, .reset, .reset⟩ by decide +kernel]
    intro i hi
    interval_cases i <;> first | exact built_d1 | exact built_reset _
  acTables := by
    rw [show p1.htAc = ⟨a1, .reset, .reset, .reset⟩ by decide +kernel]
    intro i hi
    interval_cases i <;> first | exact built_a1 | exact built_reset _

theorem witness_DecMcuEqualsHandPipeline :
    p1.Legal ∧ p1.scanact = true ∧ restartDue p1.ri p1.mcucnt.toNat = false ∧
    ∃ t, exec .decMcu p1 = .next t ∧ t.result = .ok :=
  ⟨legal_p1, by decide +kernel, by decide +kernel, _, exec_after _ _, by decide +kernel⟩

/-- A legal state with a command pending (the pending accesses are no part of Legal). -/
theorem witness_LegalKeptByStep :
    ({ p1 with hostq := [cmdWrite 0x50000000] } : State).Legal ∧
    ∃ t, step { p1 with hostq := [cmdWrite 0x50000000] } = .next t := by
  refine ⟨?_, ?_⟩
  · obtain ⟨h1, h2, h3, h4, h5, h6, h7, h8, h9, h10, h11, h12, h13, h14, h15, h16, h17, h18, h19⟩ := legal_p1
    exact ⟨h1, h2, h3, h4, h5, h6, h7, h8, h9, h10, h11, h12, h13, h14, h15, h16, h17, h18, h19⟩
  · exact exists_next (by decide +kernel)

theorem witness_BlocksInsidePlanes :
    (1 < interleaved.ns.toNat ∧ 2 < interleaved.ns.toNat ∧ 1 < interleaved.hOf (interleaved.slotComp 0) ∧
      1 < interleaved.vOf (interleaved.slotComp 0) ∧ 0 < interleaved.hOf (interleaved.slotComp 2) ∧
      0 < interleaved.vOf (interleaved.slotComp 2)) ∧
    p1.ns.toNat = 1 ∧
    p1.Legal ∧ p1.scanact = true ∧ 0 < p1.mcutot.toNat ∧ (⟨0, 0, 0, 0⟩ : McuBlock) ∈ p1.mcuBlocks 0 :=
  ⟨by decide +kernel, by decide +kernel, legal_p1, by decide +kernel, by decide +kernel, by decide +kernel⟩

theorem witness_NoReadPastInLen :
    (∀ a < p1.inLen.toNat, Memory.read (Memory.write p1.inMem p1.inLen.toNat 7) a = Memory.read p1.inMem a) ∧
    ∃ t, exec .decMcu p1 = .next t :=
  ⟨by decide +kernel, _, exec_after _ _⟩

theorem witness_OutNeverRead : ∃ t, exec .ccRow decoded = .next t := ⟨_, exec_after _ _⟩

end Sys2Proof.Tests
end

/-! # The family 10_state.md: what a command that ends OK does, who writes what, and the invariant of legal states -/

/-! ## What a command that ends OK has done -/

namespace Sys2Proof.Machine

/-- `Completes i s u`: command i, issued in state s, meets all its checks and leaves u (before RESULT becomes OK). One
constructor per command: the checks of its rule (but one that a later check implies), then its effect. ABORT has two, for a
session that it ends and for a no-op (R144). -/
inductive Completes : Instr → State → State → Prop where
  | sreset {s : State} : Completes .sreset s { s.resetBlock with arg := s.arg }
  | setInput {s : State} (hs : s.sess = .empty) : Completes .setInput s { s with inLen := s.arg, inSession := true }
  | start {s : State} {ord : BitVec 2} (hord : ord.toNat ≤ 1) (hs : s.sess = .empty) (hf : s.frameset = true)
      (hc : ∀ c < s.nf.toNat, (s.cfg c).cset = true) (hq : ∀ c < s.nf.toNat, (s.quant (s.cfg c).tq).qvalid = true) :
      Completes (.start ord) s
        { s.withGeometry.clearPlanes with
          width := s.fx, height := s.fy, row := 0, corder := channelOrder ord, sess := .started }
  | finish {s : State} (hs : s.sess = .started) (ha : s.scanact = false) (hr : s.height.toNat ≤ s.row.toNat)
      (hm : s.marker = 0xD9) : Completes .finish s { s.clearPlanes with sess := .finished, inSession := false }
  | abortSession {s : State} (hs : s.sess = .started ∨ s.sess = .failed) :
      Completes .abort s { s.clearPlanes with scanact := false, sess := .aborted, inSession := false }
  | abortNoop {s : State} (hs : s.sess ≠ .started ∧ s.sess ≠ .failed) : Completes .abort s s
  | rdBuf {s : State} {sel : BitVec 3} {idx : BitVec 6} (hsel : sel.toNat ≤ 3) (hidx : sel.toNat ≠ 3 ∨ idx.toNat ≤ 2)
      (hs : s.sess ≠ .failed) : Completes (.rdBuf sel idx) s { s with res := s.bufElement sel idx }
  | loadQt {s : State} {pq tq : BitVec 4} (hs : s.sess = .empty ∨ (s.sess = .started ∧ s.scanact = false))
      (hpq : pq.toNat ≤ 1) (htq : tq.toNat ≤ 3) (hlen : s.argOffset + 64 * (pq.toNat + 1) ≤ s.inLen.toNat) :
      Completes (.loadQt pq tq) s
        { s with
          qt := s.qt.set tq.toNat ⟨true, scatterZigzag (s.quantEntry pq.toNat s.argOffset)⟩
          res := BitVec.ofNat 32 (64 * (pq.toNat + 1)) }
  | loadHt {s : State} {tc th : BitVec 4} {t : HuffTable}
      (hs : s.sess = .empty ∨ (s.sess = .started ∧ s.scanact = false)) (htc : tc.toNat ≤ 1) (hth : th.toNat ≤ 3)
      (hlen : s.argOffset + 16 + symEnd (s.huffCounts s.argOffset) 16 ≤ s.inLen.toNat)
      (hm : symEnd (s.huffCounts s.argOffset) 16 ≤ 256)
      (ht : buildHuff (s.huffCounts s.argOffset)
        (s.huffSymbols s.argOffset (symEnd (s.huffCounts s.argOffset) 16)) = .ok t)
      (hdc : tc.toNat = 0 →
        ∀ b ∈ s.huffSymbols s.argOffset (symEnd (s.huffCounts s.argOffset) 16), b.toNat ≤ 15) :
      Completes (.loadHt tc th) s
        { s.setHt (tc.setWidth 1) (th.setWidth 2) t with
          res := BitVec.ofNat 32 (16 + symEnd (s.huffCounts s.argOffset) 16) }
  | setFrame {s : State} {p nf : BitVec 8} (hs : s.sess = .empty) (hp : p.toNat = 8) (hnf : nf.toNat = 1 ∨ nf.toNat = 3)
      (hx : s.argLow.toNat ≠ 0) (hy : s.argHigh.toNat ≠ 0) :
      Completes (.setFrame p nf) s
        { s with
          prec := p, nf := nf.setWidth 2, fx := s.argLow, fy := s.argHigh
          comp := ⟨{ s.comp.c0 with cset := false }, { s.comp.c1 with cset := false }, { s.comp.c2 with cset := false }⟩
          frameset := true }
  | setComp {s : State} {c : BitVec 2} {h v : BitVec 4} {tq : BitVec 8} (hs : s.sess = .empty) (hf : s.frameset = true)
      (hc : c.toNat ≤ 2) (hnf : c.toNat < s.nf.toNat)
      (hhv : 1 ≤ h.toNat ∧ h.toNat ≤ 4 ∧ 1 ≤ v.toNat ∧ v.toNat ≤ 4) (htq : tq.toNat ≤ 3) :
      Completes (.setComp c h v tq) s { s with comp := s.comp.set c.toNat ⟨true, h, v, tq.setWidth 2⟩ }
  | setDri {s : State} (hs : s.sess = .empty ∨ (s.sess = .started ∧ s.scanact = false)) :
      Completes .setDri s { s with ri := s.argLow }
  | setScanComp {s : State} {i c : BitVec 2} {td ta : BitVec 4} (hs : s.sess = .started) (ha : s.scanact = false)
      (hc : c.toNat ≤ 2) (hnf : c.toNat < s.nf.toNat) (htab : td.toNat ≤ 3 ∧ ta.toNat ≤ 3) :
      Completes (.setScanComp i c td ta) s { s with sc := s.sc.set i.toNat ⟨true, c, td.setWidth 2, ta.setWidth 2⟩ }
  | startScan {s : State} {ns : BitVec 8} (hs : s.sess = .started) (ha : s.scanact = false)
      (hns : ns.toNat ≠ 0 ∧ ns.toNat ≤ 4 ∧ ns.toNat ≤ s.nf.toNat) (hset : ∀ i < ns.toNat, (s.slot i).sset = true)
      (hord : ∀ i < ns.toNat, 0 < i → s.slotComp (i - 1) < s.slotComp i)
      (hsize : 1 < ns.toNat → s.mcuSize ns.toNat ≤ 10)
      (hht : ∀ i < ns.toNat, (s.ht 0 (s.slot i).td).hvalid = true ∧ (s.ht 1 (s.slot i).ta).hvalid = true) :
      Completes (.startScan ns) s
        { s with
          ns := BitVec.ofNat 3 ns.toNat, seg := s.arg, bitpos := 0, pred := .all 0, rstnext := 0, mcucnt := 0, marker := 0
          mcutot := BitVec.ofNat 32 (s.scanMcus ns.toNat), scanact := true }
  | decHuff {s : State} {tc : BitVec 1} {th : BitVec 2} {sym : Byte} {pos : Nat} (hs : s.sess = .started)
      (ha : s.scanact = true) (hv : (s.ht tc th).hvalid = true)
      (hd : s.segment.decodeSym (s.ht tc th) s.bitpos.toNat = .ok (sym, pos)) :
      Completes (.decHuff tc th) s { s.atBit pos with res := sym.setWidth 32 }
  | getBits {s : State} {n : BitVec 5} {v : Nat} (hn : n.toNat ≤ 16) (hs : s.sess = .started) (ha : s.scanact = true)
      (hv : s.segment.nextBits n.toNat s.bitpos.toNat = .ok v) :
      Completes (.getBits n) s { s.atBit (s.bitpos.toNat + n.toNat) with res := BitVec.ofNat 32 v }
  | getExt {s : State} {n : BitVec 5} {v : Int} (hn : n.toNat ≤ 15) (hs : s.sess = .started) (ha : s.scanact = true)
      (hv : s.segment.recvExt n.toNat s.bitpos.toNat = .ok v) :
      Completes (.getExt n) s { s.atBit (s.bitpos.toNat + n.toNat) with res := BitVec.ofInt 32 v }
  | decBlock {s u : State} {i : BitVec 2} {kend : Nat} (hs : s.sess = .started) (ha : s.scanact = true)
      (hi : i.toNat < s.ns.toNat) (hd : s.decodeBlock i.toNat = .ok (u, kend)) :
      Completes (.decBlock i) s { u with res := BitVec.ofNat 32 kend }
  | decMcu {s s1 s2 : State} (hs : s.sess = .started) (ha : s.scanact = true)
      (hm : s.mcucnt.toNat < s.mcutot.toNat) (h1 : s.restartIfDue s.mcucnt.toNat = .ok s1)
      (h2 : (s1.mcuBlocks s.mcucnt.toNat).foldlM State.mcuBlock s1 = .ok s2) :
      Completes .decMcu s
        { s2 with mcucnt := BitVec.ofNat 32 (s.mcucnt.toNat + 1), res := BitVec.ofNat 32 (s.mcucnt.toNat + 1) }
  | scanEnd {s : State} {code : Byte} {a next : Nat} (hs : s.sess = .started) (ha : s.scanact = true)
      (hm : s.mcutot.toNat ≤ s.mcucnt.toNat) (hb : s.segment.bits ≤ alignUp s.bitpos.toNat)
      (hstop : s.segment.stop = .marker code a next) (hcode : ¬ (0xD0 ≤ code.toNat ∧ code.toNat ≤ 0xD7)) :
      Completes .scanEnd s
        { s.atBit (alignUp s.bitpos.toNat) with marker := code, res := BitVec.ofNat 32 next, scanact := false }
  | dequant {s : State} {tq : BitVec 2} (hs : s.sess = .started) (hq : (s.quant tq).qvalid = true) :
      Completes (.dequant tq) s { s with dq := dequantise s.coef (s.quant tq).q }
  | idct {s : State} (hs : s.sess = .started) : Completes .idct s { s with samp := idctImpl s.dq }
  | putBlock {s : State} {c : BitVec 2} (hc : c.toNat ≤ 2) (hs : s.sess = .started) (hnf : c.toNat < s.nf.toNat)
      (hr : s.argLow.toNat < (s.geom.get c.toNat).pbw ∧ s.argHigh.toNat < (s.geom.get c.toNat).pbh) :
      Completes (.putBlock c) s
        { s with
          planes := s.planes.set c.toNat
            (Plane.putBlock (s.planes.get c.toNat) s.argLow.toNat s.argHigh.toNat s.samp) }
  | ccRow {s : State} (hs : s.sess = .started) (hr : s.row.toNat < s.height.toNat)
      (hout : s.argOffset + 3 * s.width.toNat ≤ s.outLen) (hready : s.ready s.row.toNat = true) :
      Completes .ccRow s
        { s with
          outMem := Memory.writeBytes s.outMem s.argOffset (s.rowBytes s.row.toNat)
          row := s.row + 1, res := (s.row + 1).setWidth 32 }
  | ccPix {s : State} :
      Completes .ccPix s
        { s with
          res :=
            0#8 ++ (orderBytes s.corder (convYcc (s.argByte 0) (s.argByte 1) (s.argByte 2))).b2 ++
              (orderBytes s.corder (convYcc (s.argByte 0) (s.argByte 1) (s.argByte 2))).b1 ++
              (orderBytes s.corder (convYcc (s.argByte 0) (s.argByte 1) (s.argByte 2))).b0 }

/-- A command whose RESULT is OK ran through its checks. -/
theorem complete_eq_ok {op : BitVec 6} {s t : State} {r : Except Raise State} (h : complete op s r = .next t)
    (hr : t.result = .ok) : ∃ u, r = .ok u ∧ t = { u with result := .ok } := by
  rcases complete_result h with ⟨-, h⟩ | ⟨he, -⟩ | ⟨hp, -⟩
  · exact h
  · rw [hr] at he; cases he
  · rw [hr] at hp; cases hp

/-- A command that ends OK is one of the cases of `Completes`. -/
theorem exec_eq_ok {i : Instr} {s t : State} (h : exec i s = .next t) (hr : t.result = .ok) :
    ∃ u, Completes i s u ∧ t = { u with result := .ok } := by
  cases i
  all_goals
    simp only [exec, execSreset, execSetInput, execStart, execFinish, execAbort, execRdBuf, execLoadQt, execLoadHt,
      execSetFrame, execSetComp, execSetDri, execSetScanComp, execStartScan, execDecHuff, execGetBits, execGetExt,
      execDecBlock, execDecMcu, execScanEnd, execDequant, execIdct, execPutBlock, execCcRow, execCcPix] at h
    obtain ⟨u, hu, rfl⟩ := complete_eq_ok h hr
    refine ⟨u, ?_, rfl⟩
    clear h hr
    simp only [rowChecks, bind_assoc, except_bind_eq_ok, exists_const, stateCheck_eq_ok, require_eq_ok, stateCause_emptyOnly,
      stateCause_emptyOrNoScan, stateCause_startedNoScan, stateCause_startedScan, stateCause_started, stateCause_notFailed,
      State.frameComps, List.mem_range, not_lt, Except.ok.injEq, Prod.exists] at hu
  case sreset => subst hu; exact .sreset
  case setInput => obtain ⟨hs, rfl⟩ := hu; exact .setInput hs
  case start => obtain ⟨hord, hs, hf, hc, hq, rfl⟩ := hu; exact .start hord hs hf hc hq
  case finish => obtain ⟨hs, ha, hr, hm, rfl⟩ := hu; exact .finish hs ha hr hm
  case abort =>
    subst hu
    split
    · exact .abortSession (.inl ‹_›)
    · exact .abortSession (.inr ‹_›)
    all_goals exact .abortNoop (by simp [*])
  case rdBuf => obtain ⟨hsel, hidx, hs, rfl⟩ := hu; exact .rdBuf hsel hidx hs
  case loadQt => obtain ⟨hs, hpq, htq, hlen, rfl⟩ := hu; exact .loadQt hs hpq htq hlen
  case loadHt =>
    obtain ⟨hs, htc, hth, -, hm, hlen, t, ht, hdc, rfl⟩ := hu
    exact .loadHt hs htc hth hlen hm ht hdc
  case setFrame => obtain ⟨hs, hp, -, hnf, hx, hy, rfl⟩ := hu; exact .setFrame hs hp hnf hx hy
  case setComp => obtain ⟨hc, hs, hf, hnf, hhv, htq, rfl⟩ := hu; exact .setComp hs hf hc hnf hhv htq
  case setDri => obtain ⟨hs, rfl⟩ := hu; exact .setDri hs
  case setScanComp => obtain ⟨hc, ⟨hs, ha⟩, hnf, htab, rfl⟩ := hu; exact .setScanComp hs ha hc hnf htab
  case startScan =>
    obtain ⟨⟨hs, ha⟩, hns, hset, hord, hsize, hht, rfl⟩ := hu
    exact .startScan hs ha hns hset hord hsize hht
  case decHuff => obtain ⟨⟨hs, ha⟩, hv, sym, pos, hd, rfl⟩ := hu; exact .decHuff hs ha hv hd
  case getBits => obtain ⟨hn, ⟨hs, ha⟩, v, hv, rfl⟩ := hu; exact .getBits hn hs ha hv
  case getExt => obtain ⟨hn, ⟨hs, ha⟩, v, hv, rfl⟩ := hu; exact .getExt hn hs ha hv
  case decBlock => obtain ⟨⟨hs, ha⟩, hi, t, kend, hd, rfl⟩ := hu; exact .decBlock hs ha hi hd
  case decMcu => obtain ⟨⟨hs, ha⟩, hm, s1, h1, s2, h2, rfl⟩ := hu; exact .decMcu hs ha hm h1 h2
  case scanEnd =>
    obtain ⟨⟨hs, ha⟩, hm, hb, hu⟩ := hu
    split at hu
    · cases hu
    · rename_i code a next hstop
      obtain ⟨hcode, hu⟩ := require_bind_eq_ok.mp hu
      cases hu
      exact .scanEnd hs ha hm hb hstop hcode
  case dequant => obtain ⟨hs, hq, rfl⟩ := hu; exact .dequant hs hq
  case idct => obtain ⟨hs, rfl⟩ := hu; exact .idct hs
  case putBlock => obtain ⟨hc, hs, hnf, hr, rfl⟩ := hu; exact .putBlock hc hs hnf hr
  case ccRow => obtain ⟨hs, hr, hout, hready, rfl⟩ := hu; exact .ccRow hs hr hout hready
  case ccPix => subst hu; exact .ccPix

/-- Everything a command can end in: what it completed, R321's entry, or R322's. -/
theorem exec_cases {i : Instr} {s t : State} (h : exec i s = .next t) :
    (∃ u, Completes i s u ∧ t = { u with result := .ok }) ∨ (∃ c, t = s.decodeError i.op c) ∨
    (∃ c, t = s.refuse i.op c) := by
  obtain ⟨r, hr⟩ := exec_complete i s
  rcases complete_result (hr.symm.trans h) with ⟨hok, -⟩ | ⟨-, he⟩ | ⟨-, hp⟩
  · exact .inl (exec_eq_ok h hok)
  · exact .inr (.inl he)
  · exact .inr (.inr hp)

end Sys2Proof.Machine

/-! ## What decoding an MCU leaves unchanged -/

namespace Sys2Proof.Machine

/-- What each run of an action keeps, a list of such runs keeps. -/
theorem foldlM_keeps {α β ε : Type} {P : β → Prop} {f : β → α → Except ε β}
    (hf : ∀ {b a b'}, P b → f b a = .ok b' → P b') {l : List α} {b b' : β} (hP : P b)
    (h : l.foldlM f b = .ok b') : P b' := by
  induction l generalizing b with
  | nil => cases h; exact hP
  | cons a l ih =>
    obtain ⟨c, hc, h⟩ := except_bind_eq_ok.mp h
    exact ih (hf hP hc) h

/-- The states that differ from s at most in the cursor, the restart count, the predictors, the block buffers and the planes:
all that decoding an MCU can leave (R222, R234). -/
inductive State.SameButMcu (s : State) : State → Prop where
  | mk {seg : Word} {bitpos : BitVec 35} {rstnext : BitVec 3} {pred : Tri (BitVec 16)} {coef : Vector (BitVec 16) 64}
      {dq : Vector (BitVec 32) 64} {samp : Vector Byte 64} {planes : Tri Plane} :
      s.SameButMcu
        { s with
          seg := seg, bitpos := bitpos, rstnext := rstnext, pred := pred, coef := coef, dq := dq, samp := samp
          planes := planes }

theorem State.SameButMcu.trans {s t u : State} (h1 : s.SameButMcu t) (h2 : t.SameButMcu u) : s.SameButMcu u := by
  cases h1
  cases h2
  exact .mk

theorem State.sameButMcu_restartIfDue {s t : State} {m : Nat} (h : s.restartIfDue m = .ok t) : s.SameButMcu t := by
  unfold State.restartIfDue at h
  split at h
  · obtain ⟨_, _, _, -, -, -, rfl⟩ := State.restart_cases h
    exact .mk
  · cases h; exact .mk

theorem State.sameButMcu_mcuBlock {s t : State} {b : McuBlock} (h : s.mcuBlock b = .ok t) : s.SameButMcu t := by
  obtain ⟨u, kend, hu, rfl⟩ := State.mcuBlock_cases h
  obtain ⟨r, -, -, rfl⟩ := State.decodeBlock_cases hu
  exact .mk

/-- The stream part of DEC_MCU: a restart if one is due, then the blocks (R234). -/
theorem State.sameButMcu_decMcu {s s1 s2 : State} {m : Nat} {bs : List McuBlock} (h1 : s.restartIfDue m = .ok s1)
    (h2 : bs.foldlM State.mcuBlock s1 = .ok s2) : s.SameButMcu s2 :=
  foldlM_keeps (P := s.SameButMcu) (fun hs h => hs.trans (State.sameButMcu_mcuBlock h)) (State.sameButMcu_restartIfDue h1) h2

end Sys2Proof.Machine

/-! ## Reset and the frame of the invariant -/

namespace Sys2Proof.Machine

/-- A reset of the block leaves a legal state whatever the host's memory holds (R55). -/
theorem State.legal_resetBlock {s : State} (hin : Memory.wf s.inMem) (hout : Memory.wf s.outMem) : s.resetBlock.Legal where
  inForm := hin
  outForm := hout
  planeForm c _ := by simp [State.reset]
  scanStarted h := by cases h
  errClear _ := rfl
  errSet h := by cases h
  unstarted _ := ⟨rfl, rfl, rfl, fun i _ => by simp [State.slot, State.reset, ScanSlot.reset]⟩
  rowBound := Nat.le_refl 0
  frame h := by cases h
  factors c _ h := by simp [State.cfg, State.reset, CompCfg.reset] at h
  opened h := by rcases h with h | h <;> cases h
  geometry h := by cases h
  slots i _ h := by simp [State.slot, State.reset, ScanSlot.reset] at h
  scan h := by cases h
  closed h := by cases h
  held h := by cases h
  unheld _ _ := ⟨rfl, fun i _ => by simp [State.reset, QuantTable.reset]⟩
  dcTables i _ h := by simp [State.reset, HuffTable.reset] at h
  acTables i _ h := by simp [State.reset, HuffTable.reset] at h

namespace State.Legal

variable {s : State} (h : s.Legal)
include h

theorem withHost (q : List HostOp) (d : Word) : { s with hostq := q, rdata := d : State }.Legal := { h with }

theorem withArg (a : Word) : { s with arg := a : State }.Legal := { h with }

theorem withResult (r : Result) : { s with result := r : State }.Legal := { h with }

theorem withRes (a : Word) : { s with res := a : State }.Legal := { h with }

theorem refuse (op : BitVec 6) (c : PvCause) : (s.refuse op c).Legal := { h with }

end State.Legal
end Sys2Proof.Machine

/-! ## What the invariant needs of the operations -/

namespace Sys2Proof.Machine

/-- A component slot after a write holds what was written or what it held. -/
theorem Tri.get_set_cases {α : Type} (t : Tri α) (c d : Nat) (a : α) :
    (t.set c a).get d = a ∨ (t.set c a).get d = t.get d := by
  unfold Tri.set Tri.get
  split <;> split <;> simp

/-- A table id or scan slot after a write holds what was written or what it held. -/
theorem Quad.get_set_cases {α : Type} (t : Quad α) (i j : Nat) (a : α) :
    (t.set i a).get j = a ∨ (t.set i a).get j = t.get j := by
  unfold Quad.set Quad.get
  split <;> split <;> simp

theorem Tri.ext_get {α : Type} {t u : Tri α} (h : ∀ c < 3, t.get c = u.get c) : t = u := by
  obtain ⟨a, b, c⟩ := t
  obtain ⟨a', b', c'⟩ := u
  obtain rfl : a = a' := h 0 (by decide)
  obtain rfl : b = b' := h 1 (by decide)
  obtain rfl : c = c' := h 2 (by decide)
  rfl

/-- What writing a list of component slots leaves in each. -/
theorem Tri.get_foldl_set {α : Type} (f : Nat → α) {l : List Nat} (hl : ∀ c ∈ l, c < 3) (g : Tri α) {d : Nat}
    (hd : d < 3) : (l.foldl (fun g c => g.set c (f c)) g).get d = if d ∈ l then f d else g.get d := by
  induction l generalizing g with
  | nil => simp
  | cons c l ih =>
    rw [List.foldl_cons, ih (fun e he => hl e (List.mem_cons_of_mem _ he))]
    by_cases hdc : d = c
    · subst hdc; simp
    · simp [hdc, Tri.get_set_other g (f c) (hl c List.mem_cons_self) hd hdc]

theorem State.lt_three_of_mem_frameComps (s : State) : ∀ c ∈ s.frameComps, c < 3 := by
  intro c hc
  have := s.nf.isLt
  have := List.mem_range.mp hc
  omega

/-- The geometry of a slot of the frame is the one of R51. -/
theorem State.withGeometry_get (s : State) {c : Nat} (hc : c < s.nf.toNat) :
    s.withGeometry.geom.get c =
      s.geomOf (maxOf (s.frameComps.map s.hOf)) (maxOf (s.frameComps.map s.vOf)) s.withGeometry.mcux s.withGeometry.mcuy c := by
  have hm : c ∈ s.frameComps := List.mem_range.mpr hc
  exact (Tri.get_foldl_set _ s.lt_three_of_mem_frameComps _ (s.lt_three_of_mem_frameComps c hm)).trans (if_pos hm)

/-- Deriving the geometry again changes nothing (R51). -/
theorem State.withGeometry_geom_idem (s : State) : s.withGeometry.withGeometry.geom = s.withGeometry.geom := by
  refine Tri.ext_get fun c hc => ?_
  by_cases hn : c < s.nf.toNat
  · exact (s.withGeometry.withGeometry_get hn).trans (s.withGeometry_get hn).symm
  · have hm : c ∉ s.withGeometry.frameComps := fun hm => hn (List.mem_range.mp hm)
    exact (Tri.get_foldl_set _ s.withGeometry.lt_three_of_mem_frameComps _ hc).trans (if_neg hm)

/-- The code of no DecodeError is 0 (R36). -/
theorem errWord_ne_zero (op : BitVec 6) (c : ErrCause) : errWord op c ≠ 0 := by
  intro h
  have hcode : c.errClass.code = 0 := by
    have := congrArg (BitVec.extractLsb' 0 2) h
    rwa [errWord, BitVec.extractLsb'_append_eq_right] at this
  cases hc : c.errClass <;> rw [hc] at hcode <;> exact absurd hcode (by decide)

/-- A field of n bits, n = 0 included, ends inside the segment when it starts there. -/
theorem Segment.nextBits_bound {g : Segment} {n pos v : Nat} (h : g.nextBits n pos = .ok v) (hp : pos ≤ g.bits) :
    pos + n ≤ g.bits := by
  rcases Nat.eq_zero_or_pos n with rfl | hn
  · exact hp
  · exact Segment.takeBits_bound h hn

/-- A block that was decoded ends inside the segment (R218, R220). -/
theorem Segment.blockRead_bound {g : Segment} {dc ac : HuffTable} {pred : BitVec 16} {pos : Nat} {r : BlockRead}
    (h : g.blockRead dc ac pred pos = .ok r) : r.pos ≤ g.bits := by
  unfold Segment.blockRead at h
  obtain ⟨⟨p, pos1⟩, hdc, hac⟩ := except_bind_eq_ok.mp h
  unfold Segment.dcRead at hdc
  obtain ⟨⟨sym, q⟩, hsym, hdc⟩ := except_bind_eq_ok.mp hdc
  obtain ⟨diff, hdiff, hdc⟩ := except_bind_eq_ok.mp hdc
  cases hdc
  obtain ⟨n, hn, -⟩ := Segment.recvExt_eq_ok hdiff
  obtain ⟨-, -, hq⟩ := Segment.decodeSym_bound hsym
  obtain ⟨-, -, -, hr, -⟩ := Segment.acLoop_bound hac (Nat.le_refl 1) (by dsimp only; omega) (Segment.nextBits_bound hn hq)
  exact hr

/-- A table that LOAD_HT builds is a valid one (R171, R176). -/
theorem buildHuff_built {bits : Vector Byte 16} {symbols : List Byte} {t : HuffTable} {dc : Bool}
    (h : buildHuff bits symbols = .ok t) (hlen : symbols.length = symEnd bits 16) (hmax : symEnd bits 16 ≤ 256)
    (hdc : dc = true → ∀ b ∈ symbols, b.toNat ≤ 15) : t.Built dc := by
  unfold buildHuff at h
  split at h
  · rename_i hfit
    cases h
    refine fun _ => ⟨hfit, fun l hl hl0 => ?_, hlen, hmax, hdc⟩
    have hl' : l - 1 < 16 := by omega
    have hsucc : l - 1 + 1 = l := by omega
    constructor <;> simp [HuffTable.firstAt, HuffTable.offAt, Vector.getD, hl', hsucc]
  · cases h

/-! The number of MCUs of a scan fits its register (R45, R228). -/

theorem ceilDiv_le {a b c : Nat} (h : a ≤ c) : ceilDiv a b ≤ c := by
  unfold ceilDiv
  rcases Nat.eq_zero_or_pos b with rfl | hb
  · simp
  · refine Nat.le_of_lt_succ (Nat.div_lt_of_lt_mul ?_)
    have := Nat.le_mul_of_pos_left c hb
    rw [Nat.mul_succ]
    omega

theorem ceilDiv_eight_le {a n : Nat} (h : a ≤ 8 * n) : ceilDiv a 8 ≤ n := by
  unfold ceilDiv
  omega

namespace State.Legal

variable {s : State} (h : s.Legal) (hs : s.sess = .started)
include h hs

/-- A plane of a frame of at most 65535 samples a side and factors of at most 4 is at most 2^15 blocks a side (R51, R226). -/
theorem blocks_le {c : Nat} (hc : c < s.nf.toNat) : s.blocksWide c ≤ 2 ^ 15 ∧ s.blocksHigh c ≤ 2 ^ 15 := by
  obtain ⟨-, -, -, -, hgeom⟩ := h.geometry hs
  obtain ⟨-, -, -, hset⟩ := h.opened (.inl hs)
  obtain ⟨-, hh, -, hv⟩ := h.factors c (s.lt_three_of_mem_frameComps c (List.mem_range.mpr hc)) (hset c hc).1
  unfold State.blocksWide State.blocksHigh
  rw [← hgeom, s.withGeometry_get hc]
  have hx := Nat.mul_le_mul (Nat.le_of_lt_succ s.fx.isLt) hh
  have hy := Nat.mul_le_mul (Nat.le_of_lt_succ s.fy.isLt) hv
  exact ⟨ceilDiv_eight_le (ceilDiv_le (by omega)), ceilDiv_eight_le (ceilDiv_le (by omega))⟩

theorem mcus_le : s.mcux ≤ 65535 ∧ s.mcuy ≤ 65535 := by
  obtain ⟨-, -, hx, hy, -⟩ := h.geometry hs
  rw [← hx, ← hy]
  exact ⟨ceilDiv_le (Nat.le_of_lt_succ s.fx.isLt), ceilDiv_le (Nat.le_of_lt_succ s.fy.isLt)⟩

theorem scanMcus_lt {n : Nat} (hc : s.slotComp 0 < s.nf.toNat) : s.scanMcus n < 2 ^ 32 := by
  obtain ⟨hx, hy⟩ := h.mcus_le hs
  obtain ⟨hw, hh⟩ := h.blocks_le hs hc
  unfold State.scanMcus
  split
  · exact Nat.lt_of_le_of_lt (Nat.mul_le_mul hx hy) (by decide)
  · exact Nat.lt_of_le_of_lt (Nat.mul_le_mul hw hh) (by decide)

end State.Legal
end Sys2Proof.Machine

/-! ## Every command keeps the invariant -/

namespace Sys2Proof.Machine.State.Legal

variable {s : State} (h : s.Legal)
include h

theorem decodeError (op : BitVec 6) (c : ErrCause) : (s.decodeError op c).Legal :=
  { h with
    planeForm := fun d hd => by
      interval_cases d <;> exact Plane.rising_ofCells _
    scanStarted := fun ha => nomatch ha
    errClear := fun hc => by rcases hc with hc | hc | hc <;> cases hc
    errSet := fun _ => errWord_ne_zero op c
    unstarted := fun he => nomatch he
    opened := fun ho => by rcases ho with ho | ho <;> cases ho
    geometry := fun hs => nomatch hs
    scan := fun ha => nomatch ha
    closed := fun hf => nomatch hf
    held := fun hs => nomatch hs
    unheld := fun he => nomatch he }

/-- No scan is active in EMPTY (R35). -/
theorem scanact_of_empty (hs : s.sess = .empty) : s.scanact = false :=
  Bool.eq_false_iff.mpr fun ha => nomatch hs.symm.trans (h.scanStarted ha)

theorem scanact_of_noScan (hs : s.sess = .empty ∨ (s.sess = .started ∧ s.scanact = false)) : s.scanact = false := by
  rcases hs with hs | ⟨-, ha⟩
  · exact h.scanact_of_empty hs
  · exact ha

/-! Updates that several commands share. -/

theorem withPlane (c : Nat) {p : Plane} (hp : risingKeys p) : { s with planes := s.planes.set c p : State }.Legal :=
  { h with
    planeForm := fun d hd => by
      rcases s.planes.get_set_cases c d p with he | he <;> simp only [he]
      · exact hp
      · exact h.planeForm d hd }

/-- An index out of range reads a slot too. -/
theorem rising_planes (c : Nat) : risingKeys (s.planes.get c) := by
  match c with
  | 0 => exact h.planeForm 0 (by decide)
  | 1 => exact h.planeForm 1 (by decide)
  | _ + 2 => exact h.planeForm 2 (by decide)

theorem putBlock (c bx row : Nat) (samp : Vector Byte 64) :
    { s with planes := s.planes.set c (Plane.putBlock (s.planes.get c) bx row samp) : State }.Legal :=
  h.withPlane c (Plane.rising_putBlock bx row samp (h.rising_planes c))

theorem withBuffers (coef : Vector (BitVec 16) 64) (dq : Vector (BitVec 32) 64) (samp : Vector Byte 64) :
    { s with coef := coef, dq := dq, samp := samp : State }.Legal := { h with }

theorem clearPlanes : s.clearPlanes.Legal := { h with planeForm := fun c _ => by simp }

/-- The cursor moves to a bit of the segment, or to its end (R44). -/
theorem withCursor (a : Word) {p : BitVec 35} (hp : p.toNat ≤ { s with seg := a : State }.segment.bits) :
    { s with seg := a, bitpos := p : State }.Legal :=
  { h with
    scan := fun ha => by
      obtain ⟨h1, h2, h3, h4, h5, h6, h7, -⟩ := h.scan ha
      exact ⟨h1, h2, h3, h4, h5, h6, h7, hp⟩ }

theorem atBit {pos : Nat} (hp : pos ≤ s.segment.bits) : (s.atBit pos).Legal :=
  h.withCursor s.seg (Nat.le_trans (by simpa using Nat.mod_le _ _) hp)

theorem setHt (ha : s.scanact = false) (tc : BitVec 1) (th : BitVec 2) {t : HuffTable} (ht : t.Built (tc == 0)) :
    (s.setHt tc th t).Legal := by
  unfold State.setHt
  split
  · rename_i htc
    exact { h with
      scan := fun ha' => nomatch ha.symm.trans ha'
      dcTables := fun i hi => by
        rcases s.htDc.get_set_cases th.toNat i t with he | he <;> simp only [he]
        · simpa [htc] using ht
        · exact h.dcTables i hi }
  · rename_i htc
    exact { h with
      scan := fun ha' => nomatch ha.symm.trans ha'
      acTables := fun i hi => by
        rcases s.htAc.get_set_cases th.toNat i t with he | he <;> simp only [he]
        · rwa [beq_eq_false_iff_ne.mpr htc] at ht
        · exact h.acTables i hi }

/-! The session commands. -/

theorem sreset : { s.resetBlock with arg := s.arg : State }.Legal := (legal_resetBlock h.inForm h.outForm).withArg s.arg

theorem setInput (hs : s.sess = .empty) : { s with inLen := s.arg, inSession := true : State }.Legal :=
  { h with
    scan := fun ha => nomatch (h.scanact_of_empty hs).symm.trans ha
    held := fun _ => rfl
    unheld := fun _ hn => nomatch hn }

/-- START needs the quantisation tables of its components, and none is loaded before a SET_INPUT (R142, R170, R82). -/
theorem inSession_of_startable (hs : s.sess = .empty) (hf : s.frameset = true)
    (hq : ∀ c < s.nf.toNat, (s.quant (s.cfg c).tq).qvalid = true) : s.inSession = true := by
  by_contra hn
  obtain ⟨-, hqt⟩ := h.unheld hs (Bool.eq_false_iff.mpr hn)
  obtain ⟨hnf, -⟩ := h.frame hf
  have h0 : (s.quant (s.cfg 0).tq).qvalid = true := hq 0 (by omega)
  exact nomatch h0.symm.trans (hqt _ (s.cfg 0).tq.isLt)

theorem start {o : ChannelOrder} (hs : s.sess = .empty) (hf : s.frameset = true)
    (hc : ∀ c < s.nf.toNat, (s.cfg c).cset = true) (hq : ∀ c < s.nf.toNat, (s.quant (s.cfg c).tq).qvalid = true) :
    { s.withGeometry.clearPlanes with
      width := s.fx, height := s.fy, row := 0, corder := o, sess := .started : State }.Legal :=
  { h with
    planeForm := fun c _ => by simp
    scanStarted := fun _ => rfl
    errClear := fun _ => h.errClear (.inl hs)
    errSet := fun he => nomatch he
    unstarted := fun he => nomatch he
    rowBound := Nat.zero_le _
    opened := fun _ => ⟨hf, rfl, rfl, fun c hn => ⟨hc c hn, hq c hn⟩⟩
    geometry := fun _ => ⟨rfl, rfl, rfl, rfl, s.withGeometry_geom_idem⟩
    scan := fun ha => nomatch (h.scanact_of_empty hs).symm.trans ha
    closed := fun he => nomatch he
    held := fun _ => h.inSession_of_startable hs hf hq
    unheld := fun he => nomatch he }

theorem finish (hs : s.sess = .started) (ha : s.scanact = false) (hr : s.height.toNat ≤ s.row.toNat)
    (hm : s.marker = 0xD9) : { s.clearPlanes with sess := .finished, inSession := false : State }.Legal :=
  { h.clearPlanes with
    scanStarted := fun ha' => nomatch ha.symm.trans ha'
    errClear := fun _ => h.errClear (.inr (.inl hs))
    errSet := fun he => nomatch he
    unstarted := fun he => nomatch he
    opened := fun _ => h.opened (.inl hs)
    geometry := fun he => nomatch he
    scan := fun ha' => nomatch ha.symm.trans ha'
    closed := fun _ => ⟨BitVec.eq_of_toNat_eq (Nat.le_antisymm h.rowBound hr), hm⟩
    held := fun he => nomatch he
    unheld := fun he => nomatch he }

theorem abort : { s.clearPlanes with scanact := false, sess := .aborted, inSession := false : State }.Legal :=
  { h.clearPlanes with
    scanStarted := fun ha => nomatch ha
    errClear := fun he => by rcases he with he | he | he <;> cases he
    errSet := fun he => nomatch he
    unstarted := fun he => nomatch he
    opened := fun ho => by rcases ho with ho | ho <;> cases ho
    geometry := fun he => nomatch he
    scan := fun ha => nomatch ha
    closed := fun he => nomatch he
    held := fun he => nomatch he
    unheld := fun he => nomatch he }

/-! Tables, frame and scan. -/

theorem loadQt {n : Nat} {q : Vector (BitVec 16) 64} (c : Nat) (hn : 0 < n) (hlen : s.argOffset + n ≤ s.inLen.toNat) :
    { s with qt := s.qt.set c ⟨true, q⟩ : State }.Legal :=
  { h with
    opened := fun ho => by
      obtain ⟨hf, hw, hh, hc⟩ := h.opened ho
      refine ⟨hf, hw, hh, fun d hd => ⟨(hc d hd).1, ?_⟩⟩
      rcases s.qt.get_set_cases c (s.cfg d).tq.toNat ⟨true, q⟩ with he | he
      · exact congrArg QuantTable.qvalid he
      · exact (congrArg QuantTable.qvalid he).trans (hc d hd).2
    unheld := fun he hi => by
      obtain ⟨hl, -⟩ := h.unheld he hi
      have hl0 : s.inLen.toNat = 0 := congrArg BitVec.toNat hl
      omega }

theorem loadHt {tc th : BitVec 4} {t : HuffTable} (ha : s.scanact = false) (htc : tc.toNat ≤ 1)
    (hm : symEnd (s.huffCounts s.argOffset) 16 ≤ 256)
    (ht : buildHuff (s.huffCounts s.argOffset)
      (s.huffSymbols s.argOffset (symEnd (s.huffCounts s.argOffset) 16)) = .ok t)
    (hdc : tc.toNat = 0 → ∀ b ∈ s.huffSymbols s.argOffset (symEnd (s.huffCounts s.argOffset) 16), b.toNat ≤ 15) :
    (s.setHt (tc.setWidth 1) (th.setWidth 2) t).Legal := by
  refine h.setHt ha _ _ (buildHuff_built ht (by simp [State.huffSymbols]) hm fun h0 => hdc ?_)
  have htc0 : tc.toNat % 2 ^ 1 = 0 := congrArg BitVec.toNat (eq_of_beq h0)
  omega

theorem setFrame {p nf : BitVec 8} (hs : s.sess = .empty) (hp : p.toNat = 8) (hnf : nf.toNat = 1 ∨ nf.toNat = 3)
    (hx : s.argLow.toNat ≠ 0) (hy : s.argHigh.toNat ≠ 0) :
    { s with
      prec := p, nf := nf.setWidth 2, fx := s.argLow, fy := s.argHigh
      comp := ⟨{ s.comp.c0 with cset := false }, { s.comp.c1 with cset := false }, { s.comp.c2 with cset := false }⟩
      frameset := true : State }.Legal :=
  { h with
    frame := fun _ => by
      refine ⟨?_, fun he => hx (congrArg BitVec.toNat he), fun he => hy (congrArg BitVec.toNat he),
        BitVec.eq_of_toNat_eq hp⟩
      simp only [BitVec.toNat_setWidth]
      omega
    factors := fun c hc hset => by interval_cases c <;> cases hset
    opened := fun ho => by rcases ho with ho | ho <;> exact nomatch hs.symm.trans ho
    geometry := fun ho => nomatch hs.symm.trans ho
    slots := fun i hi hset => by
      obtain ⟨-, -, -, hclear⟩ := h.unstarted hs
      exact nomatch (hclear i hi).symm.trans hset
    scan := fun ha => nomatch (h.scanact_of_empty hs).symm.trans ha }

theorem setComp {c : Nat} {fh fv : BitVec 4} {tq : BitVec 2} (hs : s.sess = .empty)
    (hhv : 1 ≤ fh.toNat ∧ fh.toNat ≤ 4 ∧ 1 ≤ fv.toNat ∧ fv.toNat ≤ 4) :
    { s with comp := s.comp.set c ⟨true, fh, fv, tq⟩ : State }.Legal :=
  { h with
    factors := fun d hd => by
      simp only [State.hOf, State.vOf, State.cfg]
      rcases s.comp.get_set_cases c d ⟨true, fh, fv, tq⟩ with he | he <;> rw [he]
      · exact fun _ => hhv
      · exact h.factors d hd
    opened := fun ho => by rcases ho with ho | ho <;> exact nomatch hs.symm.trans ho
    geometry := fun ho => nomatch hs.symm.trans ho
    scan := fun ha => nomatch (h.scanact_of_empty hs).symm.trans ha }

theorem setDri (a : BitVec 16) : { s with ri := a : State }.Legal := { h with }

theorem setScanComp {i : Nat} {c td ta : BitVec 2} (hs : s.sess = .started) (ha : s.scanact = false)
    (hc : c.toNat < s.nf.toNat) : { s with sc := s.sc.set i ⟨true, c, td, ta⟩ : State }.Legal :=
  { h with
    unstarted := fun he => nomatch hs.symm.trans he
    slots := fun j hj => by
      simp only [State.slotComp, State.slot]
      rcases s.sc.get_set_cases i j ⟨true, c, td, ta⟩ with he | he <;> rw [he]
      · exact fun _ => hc
      · exact h.slots j hj
    scan := fun ha' => nomatch ha.symm.trans ha' }

theorem startScan {ns : BitVec 8} (hs : s.sess = .started)
    (hns : ns.toNat ≠ 0 ∧ ns.toNat ≤ 4 ∧ ns.toNat ≤ s.nf.toNat) (hset : ∀ i < ns.toNat, (s.slot i).sset = true)
    (hord : ∀ i < ns.toNat, 0 < i → s.slotComp (i - 1) < s.slotComp i) (hsize : 1 < ns.toNat → s.mcuSize ns.toNat ≤ 10)
    (hht : ∀ i < ns.toNat, (s.ht 0 (s.slot i).td).hvalid = true ∧ (s.ht 1 (s.slot i).ta).hvalid = true) :
    { s with
      ns := BitVec.ofNat 3 ns.toNat, seg := s.arg, bitpos := 0, pred := .all 0, rstnext := 0, mcucnt := 0, marker := 0
      mcutot := BitVec.ofNat 32 (s.scanMcus ns.toNat), scanact := true : State }.Legal :=
  { h with
    scanStarted := fun _ => hs
    scan := fun _ => by
      obtain ⟨hns0, hns4, hnsf⟩ := hns
      have hn : (BitVec.ofNat 3 ns.toNat).toNat = ns.toNat := by
        rw [BitVec.toNat_ofNat]; omega
      have htot : (BitVec.ofNat 32 (s.scanMcus ns.toNat)).toNat = s.scanMcus ns.toNat :=
        (BitVec.toNat_ofNat _ _).trans (Nat.mod_eq_of_lt (h.scanMcus_lt hs (h.slots 0 (by decide) (hset 0 (by omega)))))
      dsimp only
      rw [hn, htot]
      exact ⟨by omega, hnsf, fun i hi => ⟨hset i hi, hht i hi⟩, hord, hsize, rfl, Nat.zero_le _, Nat.zero_le _⟩
    closed := fun hf => nomatch hs.symm.trans hf }

/-! The stream and the blocks. -/

theorem decodeBlock {t : State} {i kend : Nat} (hd : s.decodeBlock i = .ok (t, kend)) : t.Legal := by
  obtain ⟨r, hr, -, rfl⟩ := State.decodeBlock_cases hd
  exact { h.atBit (Segment.blockRead_bound hr) with }

theorem storeBlock (b : McuBlock) : (s.storeBlock b).Legal :=
  (h.putBlock b.comp b.col b.row _).withBuffers _ _ _

theorem mcuBlock {t : State} {b : McuBlock} (hb : s.mcuBlock b = .ok t) : t.Legal := by
  obtain ⟨u, kend, hu, rfl⟩ := State.mcuBlock_cases hb
  exact (h.decodeBlock hu).storeBlock b

theorem restartIfDue {t : State} {m : Nat} (hr : s.restartIfDue m = .ok t) : t.Legal := by
  unfold State.restartIfDue at hr
  split at hr
  · obtain ⟨_, _, n, -, -, -, rfl⟩ := State.restart_cases hr
    exact { h.withCursor (BitVec.ofNat 32 n) (p := 0) (Nat.zero_le _) with }
  · cases hr; exact h

/-- One more MCU is counted (R234). -/
theorem withMcucnt {m : Nat} (hm : m ≤ s.mcutot.toNat) : { s with mcucnt := BitVec.ofNat 32 m : State }.Legal :=
  { h with
    scan := fun ha => by
      obtain ⟨h1, h2, h3, h4, h5, h6, -, h8⟩ := h.scan ha
      exact ⟨h1, h2, h3, h4, h5, h6, Nat.le_trans (by simpa using Nat.mod_le _ _) hm, h8⟩ }

theorem decMcu {s1 s2 : State} (hm : s.mcucnt.toNat < s.mcutot.toNat) (h1 : s.restartIfDue s.mcucnt.toNat = .ok s1)
    (h2 : (s1.mcuBlocks s.mcucnt.toNat).foldlM State.mcuBlock s1 = .ok s2) :
    { s2 with mcucnt := BitVec.ofNat 32 (s.mcucnt.toNat + 1) : State }.Legal := by
  have hl : s2.Legal := foldlM_keeps (P := State.Legal) (fun hu hb => hu.mcuBlock hb) (h.restartIfDue h1) h2
  have htot : s2.mcutot = s.mcutot := by
    cases State.sameButMcu_decMcu h1 h2; rfl
  exact hl.withMcucnt (by rw [htot]; omega)

theorem scanEnd {pos : Nat} {code : Byte} (hs : s.sess = .started) :
    { s.atBit pos with marker := code, scanact := false : State }.Legal :=
  { h with
    scanStarted := fun ha => nomatch ha
    scan := fun ha => nomatch ha
    closed := fun hf => nomatch hs.symm.trans hf }

theorem ccRow {bs : List Byte} (hs : s.sess = .started) (hr : s.row.toNat < s.height.toNat) :
    { s with outMem := Memory.writeBytes s.outMem s.argOffset bs, row := s.row + 1 : State }.Legal :=
  { h with
    outForm := Memory.wf_writeBytes _ _ h.outForm
    unstarted := fun he => nomatch hs.symm.trans he
    rowBound := by
      dsimp only
      bv_omega
    closed := fun hf => nomatch hs.symm.trans hf }

theorem bitpos_le (ha : s.scanact = true) : s.bitpos.toNat ≤ s.segment.bits := by
  obtain ⟨-, -, -, -, -, -, -, hb⟩ := h.scan ha
  exact hb

/-! The host's buffers. -/

/-- Outside a session no scan reads IN (R82). -/
theorem supplyIn (bs : List Byte) (hin : s.inSession = false) : { s with inMem := Memory.ofBytes bs : State }.Legal :=
  { h with
    inForm := Memory.wf_ofBytes bs
    scan := fun ha => nomatch hin.symm.trans (h.held (h.scanStarted ha)) }

theorem supplyOut (len : Nat) (bs : List Byte) : { s with outLen := len, outMem := Memory.ofBytes bs : State }.Legal :=
  { h with outForm := Memory.wf_ofBytes bs }

end Sys2Proof.Machine.State.Legal

/-! ## O57 and O56: the invariant -/

namespace Sys2Proof.Machine

theorem Completes.legal {i : Instr} {s u : State} (h : Completes i s u) (hl : s.Legal) : u.Legal := by
  cases h with
  | sreset => exact hl.sreset
  | setInput hs => exact hl.setInput hs
  | start _ hs hf hc hq => exact hl.start hs hf hc hq
  | finish hs ha hr hm => exact hl.finish hs ha hr hm
  | abortSession => exact hl.abort
  | abortNoop => exact hl
  | rdBuf => exact hl.withRes _
  | loadQt _ _ _ hlen => exact (hl.loadQt _ (by omega) hlen).withRes _
  | loadHt hs htc _ _ hm ht hdc => exact (hl.loadHt (hl.scanact_of_noScan hs) htc hm ht hdc).withRes _
  | setFrame hs hp hnf hx hy => exact hl.setFrame hs hp hnf hx hy
  | setComp hs _ _ _ hhv => exact hl.setComp hs hhv
  | setDri => exact hl.setDri _
  | setScanComp hs ha _ hnf => exact hl.setScanComp hs ha hnf
  | startScan hs _ hns hset hord hsize hht => exact hl.startScan hs hns hset hord hsize hht
  | decHuff _ _ _ hd => exact (hl.atBit (Segment.decodeSym_bound hd).2.2).withRes _
  | getBits _ _ ha hv => exact (hl.atBit (Segment.nextBits_bound hv (hl.bitpos_le ha))).withRes _
  | getExt _ _ ha hv =>
    obtain ⟨n, hn, -⟩ := Segment.recvExt_eq_ok hv
    exact (hl.atBit (Segment.nextBits_bound hn (hl.bitpos_le ha))).withRes _
  | decBlock _ _ _ hd => exact (hl.decodeBlock hd).withRes _
  | decMcu _ _ hm h1 h2 => exact (hl.decMcu hm h1 h2).withRes _
  | scanEnd hs => exact (hl.scanEnd hs).withRes _
  | dequant => exact hl.withBuffers _ _ _
  | idct => exact hl.withBuffers _ _ _
  | putBlock => exact hl.putBlock _ _ _ _
  | ccRow hs hr => exact (hl.ccRow hs hr).withRes _
  | ccPix => exact hl.withRes _

theorem exec_legal {i : Instr} {s t : State} (h : exec i s = .next t) (hl : s.Legal) : t.Legal := by
  rcases exec_cases h with ⟨u, hu, rfl⟩ | ⟨c, rfl⟩ | ⟨c, rfl⟩
  · exact (hu.legal hl).withResult _
  · exact hl.decodeError _ _
  · exact hl.refuse _ _

theorem State.Legal.resetDuring {s : State} (h : s.Legal) (w : Word) : (s.resetDuring w).Legal := by
  unfold State.resetDuring
  split
  · exact legal_resetBlock h.inForm (Memory.wf_writeBytes _ _ h.outForm)
  · exact legal_resetBlock h.inForm h.outForm

theorem writeReg_legal {off : BitVec 8} {v : Word} {s t : State} (h : writeReg exec off v s = .next t) (hl : s.Legal) :
    t.Legal := by
  unfold writeReg at h
  split at h
  · unfold runWord at h
    split at h
    · exact exec_legal h hl
    · cases h; exact hl.refuse _ _
  · cases h; exact hl.withArg v
  · cases h; exact hl

/-- Every host access keeps the invariant (R30). -/
theorem hostStep_legal {a : HostOp} {s t : State} (h : hostStep exec a s = .next t) (hl : s.Legal) : t.Legal := by
  cases a with
  | write off bytes v =>
    simp only [hostStep] at h
    split at h
    · exact writeReg_legal h hl
    · cases h
  | read off bytes =>
    simp only [hostStep] at h
    split at h
    · cases h; exact hl.withHost _ _
    · cases h
  | hardwareReset => cases h; exact State.legal_resetBlock hl.inForm hl.outForm
  | resetDuring w => cases h; exact hl.resetDuring w
  | supplyIn bs =>
    simp only [hostStep] at h
    split at h
    · cases h
    · rename_i hin
      cases h
      exact hl.supplyIn bs (Bool.eq_false_iff.mpr hin)
  | supplyOut len bs => cases h; exact hl.supplyOut len bs

/-- Settles O57: a step is the host's next access, and a command ends in one of the cases of `exec_cases`. -/
theorem legalKeptByStep : Obligations.LegalKeptByStep := by
  unfold Obligations.LegalKeptByStep
  intro s t hl h
  cases hq : s.hostq with
  | nil =>
    rw [step_idle hq] at h
    cases h
    exact hl
  | cons a rest =>
    rw [step_cons hq] at h
    exact hostStep_legal h (hl.withHost rest s.rdata)

/-- Settles O56: the reset state is a reset of itself. -/
theorem legalAtReset : Obligations.LegalAtReset := by
  unfold Obligations.LegalAtReset
  obtain ⟨hin, hout⟩ := State.reset_memory_wf
  exact State.legal_resetBlock hin hout

end Sys2Proof.Machine

/-! ## O16, O17 and O19: who writes what -/

namespace Sys2Proof.Machine

/-! No command depends on RESULT: it commutes with a change of RESULT up to the point where it sets it. -/

/-- RESULT set to r. -/
def State.putResult (r : Result) (s : State) : State := { s with result := r }

theorem complete_putResult {op : BitVec 6} {r : Result} {s : State} {x y : Except Raise State}
    (h : x = State.putResult r <$> y) : complete op (State.putResult r s) x = complete op s y := by
  subst h
  match y with
  | .ok _ => rfl
  | .error (.decodeError _) => rfl
  | .error (.precond _) => rfl

/-- A command's first action commutes with f, and so does what follows it. -/
theorem bind_comm_of_map {α : Type} {r : Result} {f : α → α} {x' x : Except Raise α} {k' k : α → Except Raise State}
    (hx : x' = f <$> x) (hk : ∀ a, k' (f a) = State.putResult r <$> k a) : (x' >>= k') = State.putResult r <$> (x >>= k) := by
  subst hx
  cases x with
  | ok a => exact hk a
  | error e => rfl

/-- A first action that does not read RESULT. -/
theorem bind_comm {α : Type} {r : Result} {x : Except Raise α} {k' k : α → Except Raise State}
    (hk : ∀ a, k' a = State.putResult r <$> k a) : (x >>= k') = State.putResult r <$> (x >>= k) :=
  bind_comm_of_map (f := id) (id_map x).symm hk

theorem foldlM_comm {α : Type} {r : Result} {f : State → α → Except Raise State}
    (hf : ∀ s a, f (State.putResult r s) a = State.putResult r <$> f s a) (l : List α) (s : State) :
    l.foldlM f (State.putResult r s) = State.putResult r <$> l.foldlM f s := by
  induction l generalizing s with
  | nil => rfl
  | cons a l ih => exact bind_comm_of_map (hf s a) ih

theorem State.setHt_putResult (r : Result) (s : State) (tc : BitVec 1) (th : BitVec 2) (t : HuffTable) :
    (s.putResult r).setHt tc th t = (s.setHt tc th t).putResult r := by
  unfold State.setHt
  split <;> rfl

theorem State.segment_putResult (r : Result) (s : State) : (s.putResult r).segment = s.segment := rfl

theorem State.restart_putResult (r : Result) (s : State) :
    (s.putResult r).restart = State.putResult r <$> s.restart := by
  unfold State.restart
  refine bind_comm fun _ => ?_
  rw [State.segment_putResult]
  cases s.segment.stop with
  | endOfInput => rfl
  | marker => exact bind_comm fun _ => rfl

theorem State.restartIfDue_putResult (r : Result) (s : State) (m : Nat) :
    (s.putResult r).restartIfDue m = State.putResult r <$> s.restartIfDue m := by
  unfold State.restartIfDue
  split <;> rename_i hdue
  · rw [if_pos (c := restartDue s.ri m = true) hdue]; exact s.restart_putResult r
  · rw [if_neg (c := restartDue s.ri m = true) hdue]; rfl

theorem State.mcuBlock_putResult (r : Result) (s : State) (b : McuBlock) :
    (s.putResult r).mcuBlock b = State.putResult r <$> s.mcuBlock b := by
  unfold State.mcuBlock State.decodeBlock
  simp only [bind_assoc]
  exact bind_comm fun _ => rfl

theorem exec_putResult (i : Instr) (r : Result) (s : State) : exec i (s.putResult r) = exec i s := by
  cases i
  case sreset => rfl
  case abort =>
    simp only [exec, execAbort]
    refine complete_putResult (congrArg Except.ok ?_)
    show (match s.sess with | .started | .failed => _ | .empty | .finished | .aborted => _) = _
    cases s.sess <;> rfl
  case loadHt tc th =>
    simp only [exec, execLoadHt]
    refine complete_putResult ?_
    repeat refine bind_comm fun _ => ?_
    exact congrArg Except.ok (by simp only [State.setHt_putResult]; rfl)
  case decBlock k =>
    simp only [exec, execDecBlock, State.decodeBlock, bind_assoc]
    refine complete_putResult ?_
    repeat refine bind_comm fun _ => ?_
    rfl
  case decMcu =>
    simp only [exec, execDecMcu]
    refine complete_putResult (bind_comm fun _ => bind_comm fun _ => ?_)
    refine bind_comm_of_map (State.restartIfDue_putResult r s _) fun s1 => ?_
    exact bind_comm_of_map (foldlM_comm (State.mcuBlock_putResult r) _ s1) fun _ => rfl
  case scanEnd =>
    simp only [exec, execScanEnd]
    refine complete_putResult ?_
    repeat refine bind_comm fun _ => ?_
    rw [State.segment_putResult]
    cases s.segment.stop with
    | endOfInput => rfl
    | marker => exact bind_comm fun _ => rfl
  all_goals
    simp only [exec, execSetInput, execStart, execFinish, execRdBuf, execLoadQt, execSetFrame, execSetComp, execSetDri,
      execSetScanComp, execStartScan, execDecHuff, execGetBits, execGetExt, execDequant, execIdct, execPutBlock, execCcRow,
      execCcPix]
    refine complete_putResult ?_
    repeat refine bind_comm fun _ => ?_
    rfl

end Sys2Proof.Machine

namespace Sys2Proof.Machine

/-! SCANACT and FRAMESET (R38). -/

/-- A command that completes sets SCANACT only as START_SCAN and clears it only as one of the four that end a scan. -/
theorem Completes.scanact_cases {i : Instr} {s u : State} (h : Completes i s u) :
    u.scanact = s.scanact ∨ (u.scanact = true ∧ ∃ ns, i = .startScan ns) ∨
    (u.scanact = false ∧ (i = .scanEnd ∨ i = .finish ∨ i = .abort ∨ i = .sreset)) := by
  cases h
  case decBlock hd => obtain ⟨r, -, -, rfl⟩ := State.decodeBlock_cases hd; exact .inl rfl
  case decMcu h1 h2 => cases State.sameButMcu_decMcu h1 h2; exact .inl rfl
  all_goals simp [State.reset]

theorem Completes.frameset_cases {i : Instr} {s u : State} (h : Completes i s u) :
    u.frameset = s.frameset ∨ (u.frameset = true ∧ ∃ p nf, i = .setFrame p nf) ∨
    (u.frameset = false ∧ i = .sreset) := by
  cases h
  case decBlock hd => obtain ⟨r, -, -, rfl⟩ := State.decodeBlock_cases hd; exact .inl rfl
  case decMcu h1 h2 => cases State.sameButMcu_decMcu h1 h2; exact .inl rfl
  all_goals simp [State.reset]

/-- Settles O16: RESULT by `exec_putResult`, the two flags by their cases in each way a command can end. -/
theorem flagWriters : Obligations.FlagWriters := by
  unfold Obligations.FlagWriters
  intro i s t h
  refine ⟨fun r => (exec_putResult i r s).trans h, ?_⟩
  rcases exec_cases h with ⟨u, hu, rfl⟩ | ⟨c, rfl⟩ | ⟨c, rfl⟩
  · have hscan := hu.scanact_cases
    have hframe := hu.frameset_cases
    dsimp only
    refine ⟨fun h0 h1 => ⟨rfl, ?_⟩, fun h0 h1 => .inr ?_, fun h0 h1 => ⟨rfl, ?_⟩, fun h0 h1 => ?_⟩
    · simpa [h0, h1] using hscan
    · simpa [h0, h1] using hscan
    · simpa [h0, h1] using hframe
    · simpa [h0, h1] using hframe
  · simp +contextual
  · simp +contextual

/-! RES, the cursor, MCUCNT and ROW (R31, R32). -/

/-- Settles O17: command by command, from what it leaves. -/
theorem progressRegistersWriters : Obligations.ProgressRegistersWriters := by
  unfold Obligations.ProgressRegistersWriters
  intro i s t h hr hi
  obtain ⟨u, hu, rfl⟩ := exec_eq_ok h hr
  cases hu
  case sreset => exact absurd rfl hi
  case decBlock hd => obtain ⟨r, -, -, rfl⟩ := State.decodeBlock_cases hd; simp
  case decMcu h1 h2 => cases State.sameButMcu_decMcu h1 h2; simp
  all_goals simp

/-! The tables (R42, R43). -/

theorem State.ht_congr {s u : State} (hdc : u.htDc = s.htDc) (hac : u.htAc = s.htAc) (tc : BitVec 1) (th : BitVec 2) :
    u.ht tc th = s.ht tc th := by
  unfold State.ht
  rw [hdc, hac]

/-- Writing one Huffman table, and RES, leaves every other table. -/
theorem State.ht_setHt_other (s : State) {tc tc' : BitVec 1} {th th' : BitVec 2} (t : HuffTable) (r : Word)
    (h : ¬ (tc' = tc ∧ th' = th)) : { s.setHt tc th t with res := r : State }.ht tc' th' = s.ht tc' th' := by
  have hth : tc' = tc → th'.toNat ≠ th.toNat := fun htc he => h ⟨htc, BitVec.eq_of_toNat_eq he⟩
  unfold State.setHt State.ht
  split <;> split
  · exact Quad.get_set_other _ _ th.isLt th'.isLt (hth (by simp [*]))
  · rfl
  · rfl
  · exact Quad.get_set_other _ _ th.isLt th'.isLt (hth (by bv_omega))

theorem Completes.huffTables_eq {i : Instr} {s u : State} (h : Completes i s u) (hi : i ≠ .sreset)
    (hl : ∀ tc th, i ≠ .loadHt tc th) : u.htDc = s.htDc ∧ u.htAc = s.htAc := by
  cases h
  case sreset => exact absurd rfl hi
  case loadHt => exact absurd rfl (hl _ _)
  case decBlock hd => obtain ⟨r, -, -, rfl⟩ := State.decodeBlock_cases hd; simp
  case decMcu h1 h2 => cases State.sameButMcu_decMcu h1 h2; simp
  all_goals simp

theorem Completes.quantTables_eq {i : Instr} {s u : State} (h : Completes i s u) (hi : i ≠ .sreset)
    (hl : ∀ pq tq, i ≠ .loadQt pq tq) : u.qt = s.qt := by
  cases h
  case sreset => exact absurd rfl hi
  case loadQt => exact absurd rfl (hl _ _)
  case decBlock hd => obtain ⟨r, -, -, rfl⟩ := State.decodeBlock_cases hd; simp
  case decMcu h1 h2 => cases State.sameButMcu_decMcu h1 h2; simp
  all_goals simp

/-- A Huffman table changes only where LOAD_HT loads it. -/
theorem Completes.loadHt_of_ht_ne {i : Instr} {s u : State} (h : Completes i s u) (hi : i ≠ .sreset) {tc : BitVec 1}
    {th : BitVec 2} (hne : u.ht tc th ≠ s.ht tc th) :
    ∃ tc' th' : BitVec 4, i = .loadHt tc' th' ∧ tc'.toNat = tc.toNat ∧ th'.toNat = th.toNat := by
  obtain ⟨tc', th', rfl⟩ : ∃ tc' th', i = .loadHt tc' th' := by
    by_contra hno
    push Not at hno
    obtain ⟨hdc, hac⟩ := h.huffTables_eq hi hno
    exact hne (State.ht_congr hdc hac tc th)
  cases h with
  | @loadHt _ _ _ t _ htc hth =>
    by_cases he : tc = tc'.setWidth 1 ∧ th = th'.setWidth 2
    · obtain ⟨rfl, rfl⟩ := he
      refine ⟨tc', th', rfl, ?_, ?_⟩ <;> rw [BitVec.toNat_setWidth] <;> omega
    · exact (hne (s.ht_setHt_other t _ he)).elim

/-- A quantisation table changes only where LOAD_QT loads it. -/
theorem Completes.loadQt_of_quant_ne {i : Instr} {s u : State} (h : Completes i s u) (hi : i ≠ .sreset) {k : BitVec 2}
    (hne : u.quant k ≠ s.quant k) : ∃ pq tq : BitVec 4, i = .loadQt pq tq ∧ tq.toNat = k.toNat := by
  obtain ⟨pq, tq, rfl⟩ : ∃ pq tq, i = .loadQt pq tq := by
    by_contra hno
    push Not at hno
    exact hne (by unfold State.quant; rw [h.quantTables_eq hi hno])
  cases h with
  | loadQt _ _ htq =>
    by_cases he : k.toNat = tq.toNat
    · exact ⟨pq, tq, rfl, he.symm⟩
    · exact absurd (Quad.get_set_other s.qt _ (Nat.lt_succ_of_le htq) k.isLt he) hne

/-- Settles O19: neither error entry touches a table. -/
theorem tablesChangeOnlyByLoad : Obligations.TablesChangeOnlyByLoad := by
  unfold Obligations.TablesChangeOnlyByLoad
  intro i s t h hi
  rcases exec_cases h with ⟨u, hu, rfl⟩ | ⟨c, rfl⟩ | ⟨c, rfl⟩
  · exact ⟨fun _ _ hne => ⟨rfl, hu.loadHt_of_ht_ne hi hne⟩, fun _ hne => ⟨rfl, hu.loadQt_of_quant_ne hi hne⟩⟩
  · exact ⟨fun _ _ hne => absurd rfl hne, fun _ hne => absurd rfl hne⟩
  · exact ⟨fun _ _ hne => absurd rfl hne, fun _ hne => absurd rfl hne⟩

end Sys2Proof.Machine

/-! ## O5, O7, O9, O10 and O20: the register map -/

namespace Sys2Proof.Machine

/-! One host access (R34, R88). -/

@[simp] theorem hostStep_write_word (run : Instr → State → Answer) {off : BitVec 8} (v : Word) (s : State)
    (h : off.toNat % 4 = 0) : hostStep run (.write off 4 v) s = writeReg run off v s := by
  simp [hostStep, wordAccess, h]

@[simp] theorem hostStep_read_word (run : Instr → State → Answer) {off : BitVec 8} (s : State) (h : off.toNat % 4 = 0) :
    hostStep run (.read off 4) s = .next { s with rdata := s.readReg off } := by
  simp [hostStep, wordAccess, h]

theorem hostStep_refused (run : Instr → State → Answer) {off : BitVec 8} {bytes : Nat} (v : Word) (s : State)
    (h : bytes ≠ 4 ∨ off.toNat % 4 ≠ 0) :
    hostStep run (.write off bytes v) s = .refused .registerAccess ∧
    hostStep run (.read off bytes) s = .refused .registerAccess := by
  have hw : wordAccess off bytes = false := by
    rcases h with h | h <;> simp [wordAccess, h]
  simp [hostStep, hw]

/-- A write to a register that is neither CMD nor ARG is ignored (R34). -/
theorem writeReg_ignored (run : Instr → State → Answer) {off : BitVec 8} (v : Word) (s : State) (h0 : off.toNat ≠ 0)
    (h4 : off.toNat ≠ 4) : writeReg run off v s = .next s := by
  unfold writeReg
  split
  · exact absurd ‹_› h0
  · exact absurd ‹_› h4
  · rfl

theorem writeReg_cmd (run : Instr → State → Answer) {w : Word} {i : Instr} (s : State) (h : decode w = .ok i) :
    writeReg run 0x00 w s = run i s := by
  show runWord run w s = run i s
  unfold runWord
  rw [h]

/-- Settles O5: the access is a word write to CMD. -/
theorem stepRunsDecodedCommand : Obligations.StepRunsDecodedCommand := by
  unfold Obligations.StepRunsDecodedCommand
  intro s w i rest hq hd
  rw [step_cons hq, hostStep_write_word exec w _ rfl, writeReg_cmd exec _ hd]

/-- Settles O7, an access at a time. -/
theorem hostRegisterAccesses : Obligations.HostRegisterAccesses := by
  unfold Obligations.HostRegisterAccesses
  intro s off bytes v rest
  refine ⟨fun hq => ?_, fun hal h0 h4 hq => ?_, fun hal hq => ?_, fun hbad hq => ?_, step_idle⟩
  · rw [step_cons hq, hostStep_write_word exec v _ rfl]
    rfl
  · rw [step_cons hq, hostStep_write_word exec v _ hal, writeReg_ignored exec v _ h0 h4]
  · rw [step_cons hq, hostStep_read_word exec _ hal]
  · obtain ⟨hw, hr⟩ := hostStep_refused exec v { s with hostq := rest } hbad
    rcases hq with hq | hq
    · rw [step_cons hq, hw]
    · rw [step_cons hq, hr]

/-! STATUS (R35). -/

theorem State.status_fields (s : State) :
    s.status.extractLsb' 0 2 = s.result.code ∧ s.status.extractLsb' 2 2 = 0 ∧ s.status.extractLsb' 4 3 = s.sess.code ∧
    s.status.extractLsb' 7 1 = 0 ∧ s.status.extractLsb' 8 1 = BitVec.ofBool s.scanact ∧
    s.status.extractLsb' 9 1 = BitVec.ofBool s.frameset ∧ s.status.extractLsb' 10 6 = 0 ∧
    s.status.extractLsb' 16 2 = s.corder.code ∧ s.status.extractLsb' 18 14 = 0 := by
  unfold State.status
  simp (disch := decide) only [extract_append_high, BitVec.extractLsb'_append_eq_right, Nat.reduceSub,
    BitVec.extractLsb'_eq_self, BitVec.ofNat_eq_ofNat, and_self]

/-- A one-bit slice holds the bit of its position. -/
theorem getLsbD_of_extract {w : Nat} {v : BitVec w} {i : Nat} {b : Bool} (h : v.extractLsb' i 1 = BitVec.ofBool b) :
    v.getLsbD i = b := by
  have := congrArg (BitVec.getLsbD · 0) h
  simpa using this

/-- Settles O9, from `State.status_fields`. -/
theorem statusFields : Obligations.StatusFields := by
  unfold Obligations.StatusFields
  intro s
  obtain ⟨hresult, h2, hsess, h7, hscan, hframe, h10, hcorder, h18⟩ := s.status_fields
  refine ⟨?_, h2, ?_, h7, getLsbD_of_extract hscan, getLsbD_of_extract hframe, h10, ?_, h18⟩
  · refine (congrArg BitVec.toNat hresult).trans ?_
    cases s.result <;> rfl
  · refine (congrArg BitVec.toNat hsess).trans ?_
    cases s.sess <;> rfl
  · refine (congrArg BitVec.toNat hcorder).trans ?_
    cases s.corder <;> rfl

/-! The other registers (R34). -/

/-- The value of an append: the upper part shifted up by the width of the lower. -/
theorem toNat_append_eq {m n : Nat} (a : BitVec m) (b : BitVec n) : (a ++ b).toNat = b.toNat + a.toNat * 2 ^ n := by
  rw [BitVec.toNat_append, ← Nat.shiftLeft_add_eq_or_of_lt b.isLt, Nat.shiftLeft_eq, Nat.add_comm]

theorem State.rstcfg_toNat (s : State) : s.rstcfg.toNat = s.ri.toNat + s.rstnext.toNat * 2 ^ 16 := by
  refine (toNat_append_eq (0#13 ++ s.rstnext) s.ri).trans ?_
  rw [toNat_append_eq 0#13 s.rstnext]
  simp

theorem State.frameinfo_toNat (s : State) :
    s.frameinfo.toNat = s.nf.toNat + s.hmax.toNat * 2 ^ 8 + s.vmax.toNat * 2 ^ 12 + s.ns.toNat * 2 ^ 16 := by
  refine (toNat_append_eq (0#13 ++ s.ns ++ s.vmax ++ s.hmax ++ 0#6) s.nf).trans ?_
  rw [toNat_append_eq (0#13 ++ s.ns ++ s.vmax ++ s.hmax) 0#6, toNat_append_eq (0#13 ++ s.ns ++ s.vmax) s.hmax,
    toNat_append_eq (0#13 ++ s.ns) s.vmax, toNat_append_eq 0#13 s.ns, BitVec.toNat_zero, BitVec.toNat_zero]
  omega

theorem State.readReg_reserved (s : State) {off : BitVec 8} (h : 0x48 ≤ off.toNat) : s.readReg off = 0 := by
  unfold State.readReg
  split
  case h_18 => rfl
  all_goals omega

/-- Settles O10: the slices and appends of the register map, each with its value. -/
theorem registerMapReads : Obligations.RegisterMapReads := by
  unfold Obligations.RegisterMapReads
  intro s
  have := s.bitpos.isLt
  refine ⟨rfl, rfl, rfl, rfl, rfl, ?_, ?_, ?_, rfl, rfl, ?_, ?_, rfl, rfl, ?_, s.rstcfg_toNat, s.frameinfo_toNat,
    fun off => s.readReg_reserved⟩
  · exact BitVec.toNat_setWidth_of_le (by decide)
  · exact BitVec.toNat_setWidth_of_le (by decide)
  · exact BitVec.toNat_setWidth_of_le (by decide)
  · exact (BitVec.toNat_ofNat _ _).trans (Nat.mod_eq_of_lt (by omega))
  · exact (BitVec.toNat_ofNat _ _).trans (Nat.mod_eq_of_lt (by omega))
  · exact BitVec.toNat_setWidth_of_le (by decide)

/-- A buffer of zeros reads 0 at every index. -/
theorem at64_zeros {w : Nat} (i : Nat) : at64 (Vector.replicate 64 (0 : BitVec w)) i = 0 := by
  by_cases hi : i < 64
  · exact at64_replicate 0 hi
  · simp [at64_eq, hi]

/-- Settles O20, from the reads of constant slots, tables and buffers. -/
theorem resetValues : Obligations.ResetValues := by
  unfold Obligations.ResetValues
  refine ⟨rfl, rfl, rfl, rfl, rfl, rfl, rfl, rfl, rfl, rfl, rfl, rfl, rfl, rfl, rfl, rfl, rfl, rfl, rfl, rfl, rfl,
    fun tc th => ?_, fun k => ?_, rfl, rfl, rfl, rfl, fun c => ?_, fun i => ?_, fun c => ?_,
    fun i => ⟨?_, ?_, ?_⟩, fun c x y => ?_, rfl⟩
  · simp [State.ht, State.reset, HuffTable.reset]
  · simp [State.quant, State.reset, QuantTable.reset]
  · simp [State.cfg, State.reset, CompCfg.reset]
  · simp [State.slot, State.reset, ScanSlot.reset]
  · simp [State.reset]
  · exact at64_zeros i
  · exact at64_zeros i
  · exact at64_zeros i
  · simp [State.reset, Plane.sample?]

end Sys2Proof.Machine

/-! # The family 20_memory.md: IN and OUT -/

/-! ## O8 and O18: who changes the host's memory -/

namespace Sys2Proof.Machine

/-- A command that completes leaves the host's side but for OUT, and only CC_ROW writes OUT (R54, R82, R83). -/
theorem Completes.host_eq {i : Instr} {s u : State} (h : Completes i s u) :
    u.inMem = s.inMem ∧ u.outLen = s.outLen ∧ u.hostq = s.hostq ∧ u.rdata = s.rdata ∧
      (i ≠ .ccRow → u.outMem = s.outMem) := by
  cases h
  case decBlock hd => obtain ⟨r, -, -, rfl⟩ := State.decodeBlock_cases hd; simp
  case decMcu h1 h2 => cases State.sameButMcu_decMcu h1 h2; simp
  all_goals simp

/-- A command that completes begins a session only as SET_INPUT and ends one only as SRESET, FINISH or ABORT (R82). -/
theorem Completes.inSession_cases {i : Instr} {s u : State} (h : Completes i s u) :
    u.inSession = s.inSession ∨ (u.inSession = true ∧ i = .setInput) ∨
    (u.inSession = false ∧
      (i = .sreset ∨ (i = .finish ∧ u.sess = .finished) ∨ (i = .abort ∧ u.sess = .aborted))) := by
  cases h
  case decBlock hd => obtain ⟨r, -, -, rfl⟩ := State.decodeBlock_cases hd; exact .inl rfl
  case decMcu h1 h2 => cases State.sameButMcu_decMcu h1 h2; exact .inl rfl
  all_goals simp [State.reset]

/-- A command leaves the host's side but for OUT, and only CC_ROW writes OUT: neither error entry touches it (R321, R322). -/
theorem exec_host_eq {i : Instr} {s t : State} (h : exec i s = .next t) :
    t.inMem = s.inMem ∧ t.outLen = s.outLen ∧ t.hostq = s.hostq ∧ t.rdata = s.rdata ∧
      (i ≠ .ccRow → t.outMem = s.outMem) := by
  rcases exec_cases h with ⟨u, hu, rfl⟩ | ⟨c, rfl⟩ | ⟨c, rfl⟩
  · exact hu.host_eq
  · exact ⟨rfl, rfl, rfl, rfl, fun _ => rfl⟩
  · exact ⟨rfl, rfl, rfl, rfl, fun _ => rfl⟩

/-- Settles O18, by `exec_host_eq`. -/
theorem onlyCcRowWritesOut : Obligations.OnlyCcRowWritesOut := by
  unfold Obligations.OnlyCcRowWritesOut
  exact fun i s t h => exec_host_eq h

/-- No command changes IN (R82). -/
theorem exec_inMem {i : Instr} {s t : State} (h : exec i s = .next t) : t.inMem = s.inMem := by
  obtain ⟨hin, -⟩ := exec_host_eq h
  exact hin

/-- The host supplies IN outside a session only (R82; log 10). -/
theorem step_supplyIn {s : State} {bs : List Byte} {rest : List HostOp} (hq : s.hostq = .supplyIn bs :: rest) :
    step s = if s.inSession then .fault .inputChangedInSession
      else .next { s with hostq := rest, inMem := Memory.ofBytes bs } :=
  step_cons hq

/-- Settles O8: the host's access, and then command by command what each does to the session. -/
theorem inputFixedDuringSession : Obligations.InputFixedDuringSession := by
  unfold Obligations.InputFixedDuringSession
  refine ⟨fun s bytes rest hq => ⟨fun hin => ?_, fun hin => ?_⟩, fun i s t h => ⟨exec_inMem h, ?_⟩⟩
  · exact (step_supplyIn hq).trans (if_pos hin)
  · exact ⟨_, (step_supplyIn hq).trans (if_neg (Bool.eq_false_iff.mp hin)), Memory.read_ofBytes bytes⟩
  · rcases exec_cases h with ⟨u, hu, rfl⟩ | ⟨c, rfl⟩ | ⟨c, rfl⟩
    · have hcases := hu.inSession_cases
      dsimp only
      exact ⟨fun h0 h1 => by simpa [h0, h1] using hcases, fun h0 h1 => by simpa [h0, h1] using hcases⟩
    · simp +contextual
    · simp +contextual

end Sys2Proof.Machine

/-! ## O59 and O60: two runs that differ in the host's memory -/

namespace Sys2Proof.Machine

/-! The segment reads IN below IN_LEN only (R81, R210). -/

theorem skipFill_congr {rd rd' : Nat → Byte} {len : Nat} (h : ∀ a < len, rd' a = rd a) (fuel q : Nat) :
    skipFill rd' len fuel q = skipFill rd len fuel q := by
  induction fuel generalizing q with
  | zero => rfl
  | succ fuel ih =>
    simp only [skipFill, ih]
    by_cases hq : q < len
    · rw [h q hq]
    · simp [hq]

theorem scanSegment_congr {rd rd' : Nat → Byte} {len : Nat} (h : ∀ a < len, rd' a = rd a) (fuel p : Nat) :
    scanSegment rd' len fuel p = scanSegment rd len fuel p := by
  induction fuel generalizing p with
  | zero => rfl
  | succ fuel ih =>
    simp only [scanSegment, ih, skipFill_congr h]
    by_cases hp : len ≤ p
    · simp only [if_pos hp]
    rw [h p (Nat.lt_of_not_le hp)]
    by_cases hp1 : len ≤ p + 1
    · simp only [if_pos hp1]
    rw [h (p + 1) (Nat.lt_of_not_le hp1)]
    by_cases hq : len ≤ skipFill rd len len (p + 1)
    · simp only [if_pos hq]
    rw [h _ (Nat.lt_of_not_le hq)]

/-- IN set to p and OUT to q. -/
def State.withMem (p q : Memory) (s : State) : State := { s with inMem := p, outMem := q }

theorem State.withMem_sess (p q : Memory) (s : State) : (s.withMem p q).sess = s.sess := rfl

theorem State.withMem_argOffset (p q : Memory) (s : State) : (s.withMem p q).argOffset = s.argOffset := rfl

/-- The buffer p holds what IN holds below IN_LEN. -/
def State.SameInput (s : State) (p : Memory) : Prop := ∀ a < s.inLen.toNat, Memory.read p a = Memory.read s.inMem a

/-- Where a first action commutes with the change f, and what follows its success takes f to g, the whole commutes with g. -/
theorem bind_eq_map_bind {α β : Type} {f : α → α} {g : β → β} {x' x : Except Raise α} {k' k : α → Except Raise β}
    (hx : x' = f <$> x) (hk : ∀ a, x = .ok a → k' (f a) = g <$> k a) : (x' >>= k') = g <$> (x >>= k) := by
  subst hx
  cases x with
  | ok a => exact hk a rfl
  | error e => rfl

/-- A first action that the change of the state leaves as it is. -/
theorem bind_eq_map_bind_same {α β : Type} {g : β → β} {x : Except Raise α} {k' k : α → Except Raise β}
    (hk : ∀ a, x = .ok a → k' a = g <$> k a) : (x >>= k') = g <$> (x >>= k) :=
  bind_eq_map_bind (f := id) (id_map x).symm hk

theorem complete_withMem {op : BitVec 6} {s t : State} {p q : Memory} {x y : Except Raise State}
    (hx : x = State.withMem p q <$> y) (h : complete op s y = .next t) :
    complete op (s.withMem p q) x = .next (t.withMem p q) := by
  subst hx
  rcases complete_cases h with ⟨u, rfl, rfl⟩ | ⟨c, rfl, rfl⟩ | ⟨c, rfl, rfl⟩ <;> rfl

theorem State.setHt_withMem (p q : Memory) (s : State) (tc : BitVec 1) (th : BitVec 2) (t : HuffTable) :
    (s.withMem p q).setHt tc th t = (s.setHt tc th t).withMem p q := by
  unfold State.setHt
  split <;> rfl

namespace State.SameInput

variable {s : State} {p : Memory} (h : s.SameInput p) (q : Memory)
include h

theorem of_sameButMcu {t : State} (ht : s.SameButMcu t) : t.SameInput p := by
  cases ht
  exact h

theorem inByte {a : Nat} (ha : a < s.inLen.toNat) : (s.withMem p q).inByte a = s.inByte a := h a ha

theorem segment : (s.withMem p q).segment = s.segment := scanSegment_congr h _ _

/-- LOAD_QT's entries lie below IN_LEN once its length check has passed (R170). -/
theorem quantEntry {pq a k : Nat} (hpq : pq ≤ 1) (hk : k < 64) (ha : a + 64 * (pq + 1) ≤ s.inLen.toNat) :
    (s.withMem p q).quantEntry pq a k = s.quantEntry pq a k := by
  unfold State.quantEntry
  split
  · rw [h.inByte q (by omega)]
  · rw [h.inByte q (by omega), h.inByte q (by omega)]

theorem quantTable {pq a : Nat} (hpq : pq ≤ 1) (ha : a + 64 * (pq + 1) ≤ s.inLen.toNat) :
    scatterZigzag ((s.withMem p q).quantEntry pq a) = scatterZigzag (s.quantEntry pq a) :=
  List.foldl_ext _ _ _ fun v k hk => by rw [h.quantEntry q hpq (List.mem_range.mp hk) ha]

theorem huffCounts {a : Nat} (ha : a + 16 ≤ s.inLen.toNat) : (s.withMem p q).huffCounts a = s.huffCounts a := by
  unfold State.huffCounts
  congr 1
  funext i
  exact h.inByte q (by omega)

theorem huffSymbols {a m : Nat} (ha : a + 16 + m ≤ s.inLen.toNat) :
    (s.withMem p q).huffSymbols a m = s.huffSymbols a m :=
  List.map_congr_left fun j hj => h.inByte q (by have := List.mem_range.mp hj; omega)

theorem restartIfDue (m : Nat) : (s.withMem p q).restartIfDue m = State.withMem p q <$> s.restartIfDue m := by
  unfold State.restartIfDue
  by_cases hdue : restartDue s.ri m = true
  · rw [if_pos hdue, if_pos (c := restartDue (s.withMem p q).ri m = true) hdue]
    unfold State.restart
    rw [h.segment q]
    refine bind_eq_map_bind_same fun _ _ => ?_
    cases s.segment.stop with
    | endOfInput => rfl
    | marker => exact bind_eq_map_bind_same fun _ _ => rfl
  · rw [if_neg hdue, if_neg (c := restartDue (s.withMem p q).ri m = true) hdue]
    rfl

theorem mcuBlock (b : McuBlock) : (s.withMem p q).mcuBlock b = State.withMem p q <$> s.mcuBlock b := by
  unfold State.mcuBlock State.decodeBlock
  simp only [bind_assoc, h.segment q]
  exact bind_eq_map_bind_same fun _ _ => rfl

theorem mcuBlocks (bs : List McuBlock) :
    bs.foldlM State.mcuBlock (s.withMem p q) = State.withMem p q <$> bs.foldlM State.mcuBlock s := by
  induction bs generalizing s with
  | nil => rfl
  | cons b bs ih =>
    exact bind_eq_map_bind (h.mcuBlock q b) fun u hu => ih (h.of_sameButMcu (State.sameButMcu_mcuBlock hu))

/-- A command but CC_ROW does the same with another OUT, and with another IN that agrees below IN_LEN (R81, R83). -/
theorem exec_of_ne_ccRow {i : Instr} {t : State} (hi : i ≠ .ccRow) (ht : exec i s = .next t) :
    exec i (s.withMem p q) = .next (t.withMem p q) := by
  cases i
  case ccRow => exact absurd rfl hi
  all_goals
    simp only [exec, execSreset, execSetInput, execStart, execFinish, execAbort, execRdBuf, execLoadQt, execLoadHt,
      execSetFrame, execSetComp, execSetDri, execSetScanComp, execStartScan, execDecHuff, execGetBits, execGetExt,
      execDecBlock, execDecMcu, execScanEnd, execDequant, execIdct, execPutBlock, execCcPix] at ht ⊢
    refine complete_withMem ?_ ht
  case sreset => rfl
  case abort =>
    rw [State.withMem_sess]
    cases s.sess <;> rfl
  case loadQt pq tq =>
    refine bind_eq_map_bind_same fun _ _ => bind_eq_map_bind_same fun _ hpq => bind_eq_map_bind_same fun _ _ =>
      bind_eq_map_bind_same fun _ hlen => ?_
    have htable := h.quantTable q (a := s.argOffset) (require_eq_ok.mp hpq) (Nat.le_of_not_lt (require_eq_ok.mp hlen))
    rw [State.withMem_argOffset, htable]
    rfl
  case loadHt tc th =>
    refine bind_eq_map_bind_same fun _ _ => bind_eq_map_bind_same fun _ _ => bind_eq_map_bind_same fun _ _ =>
      bind_eq_map_bind_same fun _ h16 => ?_
    have hcounts := h.huffCounts q (a := s.argOffset) (Nat.le_of_not_lt (require_eq_ok.mp h16))
    simp only [State.withMem_argOffset, hcounts, State.setHt_withMem]
    refine bind_eq_map_bind_same fun _ _ => bind_eq_map_bind_same fun _ hlen => ?_
    rw [h.huffSymbols q (Nat.le_of_not_lt (require_eq_ok.mp hlen))]
    exact bind_eq_map_bind_same fun _ _ => bind_eq_map_bind_same fun _ _ => rfl
  case decBlock k =>
    simp only [State.decodeBlock, bind_assoc, h.segment q]
    repeat refine bind_eq_map_bind_same fun _ _ => ?_
    rfl
  case decMcu =>
    refine bind_eq_map_bind_same fun _ _ => bind_eq_map_bind_same fun _ _ =>
      bind_eq_map_bind (h.restartIfDue q _) fun s1 h1 => ?_
    have hs1 := h.of_sameButMcu (State.sameButMcu_restartIfDue h1)
    exact bind_eq_map_bind (hs1.mcuBlocks q _) fun _ _ => rfl
  case scanEnd =>
    rw [h.segment q]
    repeat refine bind_eq_map_bind_same fun _ _ => ?_
    cases s.segment.stop with
    | endOfInput => rfl
    | marker => exact bind_eq_map_bind_same fun _ _ => rfl
  case' decHuff | getBits | getExt => rw [h.segment q]
  all_goals
    repeat refine bind_eq_map_bind_same fun _ _ => ?_
    rfl

end State.SameInput

/-- CC_ROW writes the same bytes whatever IN and OUT hold, or none where it is refused (R83, R293). -/
theorem exec_ccRow_withMem {s t : State} (h : exec .ccRow s = .next t) :
    ∃ bs, t.outMem = Memory.writeBytes s.outMem s.argOffset bs ∧ ∀ p q,
      exec .ccRow (s.withMem p q) = .next (t.withMem p (Memory.writeBytes q s.argOffset bs)) := by
  have hchecks : ∀ p q, rowChecks (s.withMem p q) = rowChecks s := fun _ _ => rfl
  simp only [exec, execCcRow, hchecks] at h ⊢
  cases hrow : rowChecks s with
  | ok _ =>
    rw [hrow] at h
    cases h
    exact ⟨s.rowBytes s.row.toNat, rfl, fun _ _ => rfl⟩
  | error e =>
    rw [hrow] at h
    refine ⟨[], ?_, fun p q => complete_withMem rfl h⟩
    cases e <;> cases h <;> rfl

/-- Two runs of a command from states that differ in OUT, and in IN at or past IN_LEN: they write the same bytes from the offset
ARG on, and leave the same state but for IN and OUT. -/
theorem exec_withMem {i : Instr} {s t : State} (h : exec i s = .next t) :
    ∃ bs, t.outMem = Memory.writeBytes s.outMem s.argOffset bs ∧ ∀ p q, s.SameInput p →
      exec i (s.withMem p q) = .next (t.withMem p (Memory.writeBytes q s.argOffset bs)) := by
  by_cases hi : i = .ccRow
  · subst hi
    obtain ⟨bs, hbs, hrun⟩ := exec_ccRow_withMem h
    exact ⟨bs, hbs, fun p q _ => hrun p q⟩
  · obtain ⟨-, -, -, -, hout⟩ := exec_host_eq h
    exact ⟨[], hout hi, fun p q hp => hp.exec_of_ne_ccRow q hi h⟩

/-- Settles O59: the first run writes OUT as the second does. -/
theorem noReadPastInLen : Obligations.NoReadPastInLen := by
  unfold Obligations.NoReadPastInLen
  intro i s t m hm h
  obtain ⟨bs, hout, hrun⟩ := exec_withMem h
  refine (hrun m s.outMem hm).trans (congrArg Host.Outcome.next ?_)
  rw [← hout]
  rfl

/-- Settles O60: a byte of OUT is one of the bytes that both runs write, or one that neither does. -/
theorem outNeverRead : Obligations.OutNeverRead := by
  unfold Obligations.OutNeverRead
  intro i s t m h
  obtain ⟨bs, hout, hrun⟩ := exec_withMem h
  refine ⟨Memory.writeBytes m s.argOffset bs, ?_, fun a => ?_⟩
  · refine (hrun s.inMem m fun _ _ => rfl).trans (congrArg Host.Outcome.next ?_)
    rw [← exec_inMem h]
    rfl
  · rw [hout, Memory.read_writeBytes, Memory.read_writeBytes]
    split
    · exact .inr rfl
    · exact .inl ⟨rfl, rfl⟩

end Sys2Proof.Machine

/-! # The family 30_encoding.md: command words, and DEC_MCU as the hand pipeline -/

/-! ## O1, O2 and O3: a word and its command -/

namespace Sys2Proof

open Machine (toNat_append_eq)

/-! Slices of a word, part by part. -/

theorem append_inj {m n : Nat} {a c : BitVec m} {b d : BitVec n} : a ++ b = c ++ d ↔ a = c ∧ b = d := by
  refine ⟨fun h => ⟨?_, ?_⟩, fun ⟨ha, hb⟩ => by rw [ha, hb]⟩
  · have := congrArg (BitVec.extractLsb' n m) h
    rwa [BitVec.extractLsb'_append_eq_left, BitVec.extractLsb'_append_eq_left] at this
  · have := congrArg (BitVec.extractLsb' 0 n) h
    rwa [BitVec.extractLsb'_append_eq_right, BitVec.extractLsb'_append_eq_right] at this

/-- An append is a slice of w exactly when its parts are the two adjacent slices. The values are compared, so that the widths
need to agree by `h` only. -/
theorem append_eq_extract {k len m n : Nat} (w : BitVec k) (lo : Nat) (a : BitVec m) (b : BitVec n) (h : len = m + n) :
    (a ++ b).toNat = (w.extractLsb' lo len).toNat ↔
      a.toNat = (w.extractLsb' (lo + n) m).toNat ∧ b.toNat = (w.extractLsb' lo n).toNat := by
  subst h
  simp only [← BitVec.extractLsb'_append_extractLsb'_eq_extractLsb' rfl, BitVec.toNat_inj, append_inj]

/-- A slice of w shares no bit with a mask exactly when neither of its parts does. -/
theorem extract_and_append {k len m n : Nat} (w : BitVec k) (lo : Nat) (a : BitVec m) (b : BitVec n) (h : len = m + n) :
    (w.extractLsb' lo len).toNat &&& (a ++ b).toNat = 0 ↔
      (w.extractLsb' (lo + n) m).toNat &&& a.toNat = 0 ∧ (w.extractLsb' lo n).toNat &&& b.toNat = 0 := by
  subst h
  rw [← BitVec.extractLsb'_append_extractLsb'_eq_extractLsb' rfl, ← BitVec.toNat_and, BitVec.and_append, toNat_append_eq,
    BitVec.toNat_and, BitVec.toNat_and, Nat.add_eq_zero_iff, Nat.mul_eq_zero, and_comm]
  simp

/-! The rows of R111 and R115, by the command. -/

/-- The reserved bits among bits [25:0] in the format of a command (R111), part by part as `encode` lays the word out. -/
def Instr.reserved : Instr → BitVec 26
  | .sreset | .setInput | .finish | .abort | .setDri | .decMcu | .scanEnd | .idct | .ccRow | .ccPix => BitVec.allOnes 26
  | .start _ | .decBlock _ | .dequant _ | .putBlock _ => BitVec.allOnes 24 ++ 0#2
  | .rdBuf _ _ => BitVec.allOnes 15 ++ 0#3 ++ BitVec.allOnes 2 ++ 0#6
  | .loadQt _ _ | .loadHt _ _ | .startScan _ => BitVec.allOnes 18 ++ 0#8
  | .setFrame _ _ => BitVec.allOnes 10 ++ 0#16
  | .setComp _ _ _ _ => BitVec.allOnes 8 ++ 0#18
  | .setScanComp _ _ _ _ => BitVec.allOnes 4 ++ 0#2 ++ BitVec.allOnes 2 ++ 0#2 ++ BitVec.allOnes 8 ++ 0#8
  | .decHuff _ _ => BitVec.allOnes 21 ++ 0#1 ++ BitVec.allOnes 2 ++ 0#2
  | .getBits _ | .getExt _ => BitVec.allOnes 21 ++ 0#5

/-- The command of the same row whose fields are those of w (R111). -/
def Instr.withFields (w : Word) : Instr → Instr
  | .start _ => .start (field w 0 2)
  | .rdBuf _ _ => .rdBuf (field w 8 3) (field w 0 6)
  | .loadQt _ _ => .loadQt (field w 4 4) (field w 0 4)
  | .loadHt _ _ => .loadHt (field w 4 4) (field w 0 4)
  | .setFrame _ _ => .setFrame (field w 8 8) (field w 0 8)
  | .setComp _ _ _ _ => .setComp (field w 16 2) (field w 12 4) (field w 8 4) (field w 0 8)
  | .setScanComp _ _ _ _ => .setScanComp (field w 20 2) (field w 16 2) (field w 4 4) (field w 0 4)
  | .startScan _ => .startScan (field w 0 8)
  | .decHuff _ _ => .decHuff (field w 4 1) (field w 0 2)
  | .getBits _ => .getBits (field w 0 5)
  | .getExt _ => .getExt (field w 0 5)
  | .decBlock _ => .decBlock (field w 0 2)
  | .dequant _ => .dequant (field w 0 2)
  | .putBlock _ => .putBlock (field w 0 2)
  | .sreset => .sreset
  | .setInput => .setInput
  | .finish => .finish
  | .abort => .abort
  | .setDri => .setDri
  | .decMcu => .decMcu
  | .scanEnd => .scanEnd
  | .idct => .idct
  | .ccRow => .ccRow
  | .ccPix => .ccPix

/-- A word with the opcode of a command is judged by the reserved bits of its format and read by its fields. -/
theorem decode_of_op {w : Word} {i : Instr} (h : i.op = opField w) :
    decode w = withReserved (0#6 ++ i.reserved) w (i.withFields w) := by
  cases i <;> simp only [decode, ← h, Instr.op, Instr.reserved] <;> rfl

/-- The word of a command, taken apart: its opcode, its reserved bits 0, its fields (R110, R111). -/
theorem encode_eq_iff (i : Instr) (w : Word) :
    encode i = w ↔ i.op = opField w ∧ w &&& (0#6 ++ i.reserved) = 0 ∧ i = i.withFields w := by
  have henc : encode i = w ↔ (encode i).toNat = (w.extractLsb' 0 32).toNat := by
    rw [BitVec.extractLsb'_eq_self, BitVec.toNat_inj]
  have hres : w &&& (0#6 ++ i.reserved) = 0 ↔ (w.extractLsb' 0 26).toNat &&& i.reserved.toNat = 0 := by
    have hw := extract_and_append w 0 0#6 i.reserved (len := 32) rfl
    rw [BitVec.extractLsb'_eq_self, ← BitVec.toNat_and] at hw
    rw [← BitVec.toNat_inj]
    simpa using hw
  rw [henc, hres]
  cases i
  all_goals
    simp (disch := decide) only [encode, Instr.reserved, Instr.op, Instr.withFields, opField, field, append_eq_extract,
      extract_and_append]
    simp only [← BitVec.toNat_and, BitVec.and_allOnes, BitVec.toNat_zero, Nat.and_zero, BitVec.toNat_inj, eq_comm (a := 0),
      Nat.reduceAdd, BitVec.ofNat_eq_ofNat, Instr.start.injEq, Instr.rdBuf.injEq, Instr.loadQt.injEq, Instr.loadHt.injEq,
      Instr.setFrame.injEq, Instr.setComp.injEq, Instr.setScanComp.injEq, Instr.startScan.injEq, Instr.decHuff.injEq,
      Instr.getBits.injEq, Instr.getExt.injEq, Instr.decBlock.injEq, Instr.dequant.injEq, Instr.putBlock.injEq]
    tauto

theorem withReserved_eq_ok {mask w : Word} {i j : Instr} : withReserved mask w i = .ok j ↔ w &&& mask = 0 ∧ i = j := by
  unfold withReserved
  split <;> simp only [*, Except.ok.injEq, reduceCtorEq, true_and, false_and]

/-- Everything the decoder can do: reject an opcode that R115 does not assign, or judge the word as one of a command with its
opcode. -/
theorem decode_cases (w : Word) :
    decode w = .error .illegalOpcode ∨ ∃ mask i, i.op = opField w ∧ decode w = withReserved mask w i := by
  unfold decode
  split
  case h_25 => exact .inl rfl
  all_goals
    rename_i hop
    refine .inr ⟨_, _, ?_, rfl⟩
    exact BitVec.eq_of_toNat_eq hop.symm

theorem op_of_decode {w : Word} {i : Instr} (h : decode w = .ok i) : i.op = opField w := by
  rcases decode_cases w with hd | ⟨mask, j, hop, hd⟩
  · exact nomatch hd.symm.trans h
  · obtain ⟨-, rfl⟩ := withReserved_eq_ok.mp (hd.symm.trans h)
    exact hop

/-- Decoding and encoding are inverse: both ask the same of the opcode, the reserved bits and the fields of the word. -/
theorem decode_eq_ok_iff {w : Word} {i : Instr} : decode w = .ok i ↔ encode i = w := by
  rw [encode_eq_iff]
  constructor
  · intro h
    have hop := op_of_decode h
    obtain ⟨hres, hfields⟩ := withReserved_eq_ok.mp ((decode_of_op hop).symm.trans h)
    exact ⟨hop, hres, hfields.symm⟩
  · rintro ⟨hop, hres, hfields⟩
    exact (decode_of_op hop).trans (withReserved_eq_ok.mpr ⟨hres, hfields.symm⟩)

/-- Settles O1, by `decode_eq_ok_iff`. -/
theorem decodeOfEncode : Obligations.DecodeOfEncode := by
  unfold Obligations.DecodeOfEncode
  exact fun i => decode_eq_ok_iff.mpr rfl

/-- Settles O2, by `decode_eq_ok_iff`. -/
theorem encodeOfDecode : Obligations.EncodeOfDecode := by
  unfold Obligations.EncodeOfDecode
  exact fun w i => decode_eq_ok_iff.mp

/-- Settles O3: the decoder runs on each of the words. -/
theorem sampleWordsDecode : Obligations.SampleWordsDecode := by
  unfold Obligations.SampleWordsDecode
  decide

end Sys2Proof

/-! ## O4 and O6: the checks on a command word -/

namespace Sys2Proof

open Machine (opcodeTable opAssigned matchesRow toNat_append_eq)

/-! The opcode table. -/

/-- The row of opcode_table.json for a command: its opcode above zeros, and the mask of its opcode and reserved bits (R111, R115). -/
def Instr.row (i : Instr) : Nat × Nat := ((i.op ++ 0#26).toNat, (BitVec.allOnes 6 ++ i.reserved).toNat)

/-- One command of every row, in the order of the table. -/
def rowCommands : List Instr :=
  [.sreset, .setInput, .start 0, .finish, .abort, .rdBuf 0 0, .loadQt 0 0, .loadHt 0 0, .setFrame 0 0, .setComp 0 0 0 0, .setDri,
    .setScanComp 0 0 0 0, .startScan 0, .decHuff 0 0, .getBits 0, .getExt 0, .decBlock 0, .decMcu, .scanEnd, .dequant 0, .idct,
    .putBlock 0, .ccRow, .ccPix]

theorem opcodeTable_eq_rows : opcodeTable = rowCommands.map Instr.row := by decide

theorem row_mem_opcodeTable (i : Instr) : i.row ∈ opcodeTable := by
  cases i <;> simp only [Instr.row, Instr.op, Instr.reserved] <;> decide

theorem exists_mem_opcodeTable {p : Nat × Nat → Prop} : (∃ r ∈ opcodeTable, p r) ↔ ∃ i : Instr, p i.row := by
  constructor
  · rintro ⟨r, hr, h⟩
    rw [opcodeTable_eq_rows] at hr
    obtain ⟨i, -, rfl⟩ := List.mem_map.mp hr
    exact ⟨i, h⟩
  · rintro ⟨i, h⟩
    exact ⟨i.row, row_mem_opcodeTable i, h⟩

/-- A word is its opcode above 26 further bits (R110). -/
theorem exists_opField_append (w : Word) : ∃ low : BitVec 26, w = opField w ++ low :=
  ⟨w.extractLsb' 0 26, (BitVec.extractLsb'_append_extractLsb' (w := 6) (len := 26) (x := w)).symm⟩

theorem opField_toNat (w : Word) : (opField w).toNat = w.toNat / 2 ^ 26 := by
  have := w.isLt
  rw [opField, BitVec.extractLsb'_toNat, Nat.shiftRight_eq_div_pow]
  omega

theorem row_fst_div (i : Instr) : i.row.1 / 2 ^ 26 = i.op.toNat := by
  have : i.row.1 = (0#26).toNat + i.op.toNat * 2 ^ 26 := toNat_append_eq i.op 0#26
  rw [this, BitVec.toNat_zero]
  omega

/-- A word has the bits of a row under its mask exactly when it has the opcode of the row and none of its reserved bits. -/
theorem append_and_rowMask (o op : BitVec 6) (low reserved : BitVec 26) :
    (o ++ low) &&& (BitVec.allOnes 6 ++ reserved) = op ++ 0#26 ↔ op = o ∧ (o ++ low) &&& (0#6 ++ reserved) = 0#(6 + 26) := by
  rw [BitVec.and_append, BitVec.and_append, ← BitVec.zero_append_zero, append_inj, append_inj, BitVec.and_allOnes,
    BitVec.and_zero]
  simp [eq_comm (a := o)]

theorem matches_row_iff (w : Word) (i : Instr) :
    w &&& BitVec.ofNat 32 i.row.2 = BitVec.ofNat 32 i.row.1 ↔ i.op = opField w ∧ w &&& (0#6 ++ i.reserved) = 0 := by
  obtain ⟨low, hw⟩ := exists_opField_append w
  have hmask : BitVec.ofNat 32 i.row.2 = BitVec.allOnes 6 ++ i.reserved := BitVec.ofNat_toNat _ _
  have hmatch : BitVec.ofNat 32 i.row.1 = i.op ++ 0#26 := BitVec.ofNat_toNat _ _
  rw [hmask, hmatch]
  have := append_and_rowMask (opField w) i.op low i.reserved
  rwa [← hw] at this

theorem opAssigned_iff (w : Word) : opAssigned w ↔ ∃ i : Instr, i.op = opField w := by
  have hrow : ∀ i : Instr, w.toNat / 2 ^ 26 = i.row.1 / 2 ^ 26 ↔ i.op = opField w := fun i => by
    rw [row_fst_div, ← opField_toNat, BitVec.toNat_inj, eq_comm]
  simp only [opAssigned, exists_mem_opcodeTable, hrow]

theorem matchesRow_iff (w : Word) :
    matchesRow w ↔ ∃ i : Instr, i.op = opField w ∧ w &&& (0#6 ++ i.reserved) = 0 := by
  simp only [matchesRow, exists_mem_opcodeTable, matches_row_iff]

/-! The first two checks of R116. -/

theorem decode_illegal {w : Word} (h : ¬ opAssigned w) : decode w = .error .illegalOpcode := by
  rcases decode_cases w with hd | ⟨-, i, hop, -⟩
  · exact hd
  · exact absurd ((opAssigned_iff w).mpr ⟨i, hop⟩) h

theorem decode_reserved {w : Word} (ha : opAssigned w) (hm : ¬ matchesRow w) : decode w = .error .reservedBits := by
  obtain ⟨i, hop⟩ := (opAssigned_iff w).mp ha
  rw [decode_of_op hop, withReserved, if_neg fun hres => hm ((matchesRow_iff w).mpr ⟨i, hop, hres⟩)]

theorem exists_decode_of_matchesRow {w : Word} (h : matchesRow w) : ∃ i, decode w = .ok i := by
  obtain ⟨i, hop, hres⟩ := (matchesRow_iff w).mp h
  exact ⟨_, (decode_of_op hop).trans (if_pos hres)⟩

end Sys2Proof

namespace Sys2Proof.Machine

/-! BAD_FIELD (R117). -/

/-- A command with a block field out of range is refused before any other check (R117, R318). -/
theorem exec_badField {i : Instr} (h : i.wf = false) (s : State) : exec i s = .next (s.refuse i.op .badField) := by
  cases i
  case start | setComp | setScanComp | putBlock | getBits | getExt =>
    simp only [exec, execStart, execSetComp, execSetScanComp, execPutBlock, execGetBits, execGetExt]
    rw [require_false _ (of_decide_eq_false h)]
    rfl
  case rdBuf sel idx =>
    simp only [exec, execRdBuf]
    by_cases hsel : sel.toNat ≤ 3
    · rw [require_true _ hsel, except_ok_bind, require_false]
      · rfl
      · simpa [Instr.wf, hsel] using h
    · rw [require_false _ hsel]
      rfl
  all_goals cases h

/-! A command word written to CMD (R34, R116). -/

theorem step_cmdWrite {s : State} {w : Word} {rest : List HostOp} (hq : s.hostq = cmdWrite w :: rest) :
    step s = runWord exec w { s with hostq := rest } := by
  rw [step_cons hq]
  exact hostStep_write_word exec w _ rfl

theorem step_rejected {s : State} {w : Word} {rest : List HostOp} {r : DecodeReject} (hq : s.hostq = cmdWrite w :: rest)
    (h : decode w = .error r) :
    step s = .next (({ s with hostq := rest } : State).refuse (opField w) (rejectCause r)) := by
  rw [step_cmdWrite hq, runWord, h]

/-- Settles O4: the decoder's two checks, and then the first check of the command. -/
theorem commandWordChecks : Obligations.CommandWordChecks := by
  unfold Obligations.CommandWordChecks
  intro s w rest hq
  refine ⟨fun hop => ?_, fun hop hres => ?_, fun i hd hwf => ?_, exists_decode_of_matchesRow⟩
  · exact step_rejected hq (decode_illegal hop)
  · exact step_rejected hq (decode_reserved hop hres)
  · rw [step_cmdWrite hq, runWord, hd]
    refine (exec_badField hwf _).trans ?_
    rw [op_of_decode hd]
    rfl

/-! What a command can be refused or fault with. -/

/-- Every cause that x can end with meets P. -/
def RaisesOnly {α : Type} (P : Raise → Prop) (x : Except Raise α) : Prop := ∀ e, x = .error e → P e

section
variable {α β : Type} {P : Raise → Prop}

@[simp] theorem raisesOnly_ok (a : α) : RaisesOnly P (.ok a) := fun _ h => nomatch h

@[simp] theorem raisesOnly_error {e : Raise} : RaisesOnly P (.error e : Except Raise α) ↔ P e :=
  ⟨fun h => h e rfl, fun h _ he => Except.error.inj he ▸ h⟩

@[simp] theorem raisesOnly_bind {x : Except Raise α} {f : α → Except Raise β} :
    RaisesOnly P (x >>= f) ↔ RaisesOnly P x ∧ ∀ a, x = .ok a → RaisesOnly P (f a) := by
  cases x <;> simp

@[simp] theorem raisesOnly_require {p : Prop} [Decidable p] {e : Raise} : RaisesOnly P (require p e) ↔ (¬ p → P e) := by
  unfold require
  split <;> simp [*]

theorem raisesOnly_stateCheck {a : Allowed} {s : State} :
    RaisesOnly P (stateCheck a s) ↔ ∀ c, stateCause a s.sess s.scanact = some c → P (.precond c) := by
  unfold stateCheck
  split <;> simp [*]

theorem raisesOnly_foldlM {f : β → α → Except Raise β} (hf : ∀ b a, RaisesOnly P (f b a)) (l : List α) (b : β) :
    RaisesOnly P (l.foldlM f b) := by
  induction l generalizing b with
  | nil => exact raisesOnly_ok b
  | cons a l ih => exact raisesOnly_bind.mpr ⟨hf b a, fun c _ => ih c⟩

/-! The stream raises DecodeErrors only (R212, R215, R220, R222). -/

variable (hP : ∀ c, P (.decodeError c))
include hP

theorem Segment.raisesOnly_need (g : Segment) (i : Nat) : RaisesOnly P (g.need i) := by
  unfold Segment.need
  split
  · exact raisesOnly_ok _
  · split <;> exact raisesOnly_error.mpr (hP _)

theorem Segment.raisesOnly_takeBits (g : Segment) (n pos v : Nat) : RaisesOnly P (g.takeBits n pos v) := by
  induction n generalizing pos v with
  | zero => exact raisesOnly_ok v
  | succ n ih => exact raisesOnly_bind.mpr ⟨g.raisesOnly_need hP pos, fun _ _ => ih _ _⟩

theorem Segment.raisesOnly_recvExt (g : Segment) (t pos : Nat) : RaisesOnly P (g.recvExt t pos) :=
  raisesOnly_bind.mpr ⟨g.raisesOnly_takeBits hP t pos 0, fun _ _ => raisesOnly_ok _⟩

theorem Segment.raisesOnly_symSearch (g : Segment) (t : HuffTable) (k l pos v : Nat) :
    RaisesOnly P (g.symSearch t k l pos v) := by
  induction k generalizing l pos v with
  | zero => exact raisesOnly_error.mpr (hP _)
  | succ k ih =>
    refine raisesOnly_bind.mpr ⟨g.raisesOnly_need hP pos, fun _ _ => ?_⟩
    dsimp only
    split
    · exact raisesOnly_ok _
    · exact ih _ _ _

theorem Segment.raisesOnly_acLoop (g : Segment) (t : HuffTable) (fuel : Nat) (r : BlockRead) :
    RaisesOnly P (g.acLoop t fuel r) := by
  induction fuel generalizing r with
  | zero => exact raisesOnly_ok r
  | succ fuel ih =>
    unfold Segment.acLoop
    split
    · exact raisesOnly_ok r
    · refine raisesOnly_bind.mpr ⟨g.raisesOnly_symSearch hP t _ _ _ _, fun _ _ => ?_⟩
      dsimp only
      split
      · split
        · split
          · exact raisesOnly_error.mpr (hP _)
          · exact ih _
        · exact raisesOnly_ok _
      · split
        · exact raisesOnly_error.mpr (hP _)
        · exact raisesOnly_bind.mpr ⟨g.raisesOnly_recvExt hP _ _, fun _ _ => ih _⟩

theorem State.raisesOnly_decodeBlock (s : State) (i : Nat) : RaisesOnly P (s.decodeBlock i) := by
  refine raisesOnly_bind.mpr ⟨raisesOnly_bind.mpr ⟨?_, fun _ _ => ?_⟩, fun _ _ => raisesOnly_ok _⟩
  · exact raisesOnly_bind.mpr ⟨Segment.raisesOnly_symSearch hP _ _ _ _ _ _, fun _ _ =>
      raisesOnly_bind.mpr ⟨Segment.raisesOnly_recvExt hP _ _ _, fun _ _ => raisesOnly_ok _⟩⟩
  · exact Segment.raisesOnly_acLoop hP _ _ _ _

theorem State.raisesOnly_restartIfDue (s : State) (m : Nat) : RaisesOnly P (s.restartIfDue m) := by
  unfold State.restartIfDue
  split
  · refine raisesOnly_bind.mpr ⟨raisesOnly_require.mpr fun _ => hP _, fun _ _ => ?_⟩
    split
    · exact raisesOnly_error.mpr (hP _)
    · exact raisesOnly_bind.mpr ⟨raisesOnly_require.mpr fun _ => hP _, fun _ _ => raisesOnly_ok _⟩
  · exact raisesOnly_ok s

theorem State.raisesOnly_mcuBlock (s : State) (b : McuBlock) : RaisesOnly P (s.mcuBlock b) :=
  raisesOnly_bind.mpr ⟨s.raisesOnly_decodeBlock hP b.slot, fun _ _ => raisesOnly_ok _⟩

theorem raisesOnly_buildHuff (bits : Vector Byte 16) (symbols : List Byte) : RaisesOnly P (buildHuff bits symbols) := by
  unfold buildHuff
  split
  · exact raisesOnly_ok _
  · exact raisesOnly_error.mpr (hP _)

end

/-- The state check refuses with one of three causes (R320). -/
theorem stateCause_mem {a : Allowed} {x : Session} {b : Bool} {c : PvCause} (h : stateCause a x b = some c) :
    c ∈ [PvCause.wrongState, .scanActive, .noScan] := by
  cases a <;> cases x <;> cases b <;> cases h <;> decide

theorem pverrWord_inj {op : BitVec 6} {c d : PvCause} (h : pverrWord op c = pverrWord op d) : c = d := by
  have hcode : c.code = d.code := (append_inj.mp h).2
  cases c <;> cases d <;> revert hcode <;> decide

/-- An end of a command is a refusal with cause c only if c was raised: the other ends set another RESULT. -/
theorem eq_precond_of_complete_refuse {op : BitVec 6} {s : State} {r : Except Raise State} {c : PvCause}
    (h : complete op s r = .next (s.refuse op c)) : r = .error (.precond c) := by
  rcases complete_cases h with ⟨u, -, hu⟩ | ⟨d, -, hd⟩ | ⟨d, hr, hd⟩
  · exact nomatch congrArg State.result hu
  · exact nomatch congrArg State.result hd
  · rw [hr, pverrWord_inj (congrArg State.pverr hd)]

/-- Any cause but BAD_FIELD. -/
def Raise.NotBadField (e : Raise) : Prop := e ≠ .precond .badField

theorem Raise.notBadField_decodeError (c : ErrCause) : (Raise.decodeError c).NotBadField := nofun

theorem Raise.notBadField_precond {c : PvCause} : (Raise.precond c).NotBadField ↔ c ≠ .badField := by
  simp [Raise.NotBadField]

theorem raisesOnly_stateCheck_notBadField (a : Allowed) (s : State) : RaisesOnly Raise.NotBadField (stateCheck a s) := by
  refine raisesOnly_stateCheck.mpr fun c hc => Raise.notBadField_precond.mpr ?_
  rintro rfl
  exact absurd (stateCause_mem hc) (by decide)

theorem complete_ne_badField {op : BitVec 6} {s : State} {r : Except Raise State} (h : RaisesOnly Raise.NotBadField r) :
    complete op s r ≠ .next (s.refuse op .badField) :=
  fun hr => h _ (eq_precond_of_complete_refuse hr) rfl

/-- A command whose block fields are in range is never refused BAD_FIELD (R117): its own field check passes, and nothing else
raises that cause. -/
theorem exec_ne_badField {i : Instr} (h : i.wf = true) (s : State) : exec i s ≠ .next (s.refuse i.op .badField) := by
  have hstream := Raise.notBadField_decodeError
  cases i
  case sreset | abort | ccPix =>
    simp only [exec, execSreset, execAbort, execCcPix]
    exact complete_ne_badField (raisesOnly_ok _)
  all_goals
    refine complete_ne_badField ?_
    simp only [hstream, Raise.notBadField_precond, raisesOnly_stateCheck_notBadField, rowChecks, raisesOnly_bind,
      raisesOnly_require, raisesOnly_ok, ne_eq, reduceCtorEq, not_true_eq_false, not_false_eq_true, imp_false, not_not,
      implies_true, true_and, and_true]
  case rdBuf => simp [Instr.wf] at h; tauto
  case start | setComp | setScanComp | putBlock => simpa [Instr.wf] using h
  case loadHt => intros; exact raisesOnly_buildHuff hstream _ _
  case decHuff => intros; exact Segment.raisesOnly_symSearch hstream _ _ _ _ _ _
  case getBits => exact ⟨by simpa [Instr.wf] using h, fun _ _ _ _ => Segment.raisesOnly_takeBits hstream _ _ _ _⟩
  case getExt => exact ⟨by simpa [Instr.wf] using h, fun _ _ _ _ => Segment.raisesOnly_recvExt hstream _ _ _⟩
  case decBlock => intros; exact State.raisesOnly_decodeBlock hstream _ _
  case decMcu =>
    exact fun _ _ _ _ => ⟨s.raisesOnly_restartIfDue hstream _, fun _ _ =>
      raisesOnly_foldlM (fun t => t.raisesOnly_mcuBlock hstream) _ _⟩
  case scanEnd => cases s.segment.stop <;> simp [hstream]

/-- Settles O6, by `exec_badField` and `exec_ne_badField`. -/
theorem badFieldRefused : Obligations.BadFieldRefused := by
  unfold Obligations.BadFieldRefused
  intro s
  refine ⟨fun ord h => ?_, fun sel idx h => ?_, fun c hh v tq h => ?_, fun k c td ta h => ?_, fun c h => ?_, fun n h => ?_,
    fun n h => ?_, fun i h => exec_ne_badField h s⟩
  case refine_2 => exact exec_badField (by simp [Instr.wf]; omega) s
  all_goals
    refine exec_badField ?_ s
    exact decide_eq_false (Nat.not_le.mpr h)

end Sys2Proof.Machine

/-! ## O46: DEC_MCU and the hand pipeline -/

namespace Sys2Proof.Machine

theorem complete_of_eq_ok {op : BitVec 6} {s u : State} {r : Except Raise State} (h : r = .ok u) :
    complete op s r = .next { u with result := .ok } := by
  rw [h, complete_ok]

/-- A command that meets its checks ends OK: the converse of `exec_eq_ok`. -/
theorem Completes.exec_eq {i : Instr} {s u : State} (h : Completes i s u) : exec i s = .next { u with result := .ok } := by
  cases h
  case sreset => rfl
  case ccPix => rfl
  case abortSession hs =>
    simp only [exec, execAbort]
    rcases hs with hs | hs <;> rw [hs] <;> rfl
  case abortNoop hs =>
    obtain ⟨hstarted, hfailed⟩ := hs
    simp only [exec, execAbort]
    refine complete_of_eq_ok (congrArg Except.ok ?_)
    split
    · exact absurd ‹_› hstarted
    · exact absurd ‹_› hfailed
    all_goals rfl
  all_goals
    refine complete_of_eq_ok ?_
    simp only [rowChecks, bind_assoc, except_bind_eq_ok, exists_const, stateCheck_eq_ok, require_eq_ok, stateCause_emptyOnly,
      stateCause_emptyOrNoScan, stateCause_startedNoScan, stateCause_startedScan, stateCause_started, stateCause_notFailed,
      State.frameComps, List.mem_range, not_lt, Except.ok.injEq, Prod.exists]
  case start hord hs hf hc hq => exact ⟨hord, hs, hf, hc, hq, trivial⟩
  case loadHt t htc hth hs hlen hm ht hdc => exact ⟨hs, htc, hth, by omega, hm, hlen, t, ht, hdc, rfl⟩
  case setFrame hp hnf hs hx hy => exact ⟨hs, hp, by omega, hnf, hx, hy, trivial⟩
  case startScan hs ha hns hset hord hsize hht => exact ⟨⟨hs, ha⟩, hns, hset, hord, hsize, hht, trivial⟩
  case decBlock hs ha hi hd => exact ⟨⟨hs, ha⟩, hi, _, _, hd, rfl⟩
  case decMcu hs ha hm h1 h2 => exact ⟨⟨hs, ha⟩, hm, _, h1, _, h2, rfl⟩
  all_goals simp [*]

/-! The blocks of an MCU lie in the planes of their components (R225 to R228, R51). -/

theorem le_maxOf {l : List Nat} {a : Nat} (h : a ∈ l) : a ≤ maxOf l := by
  unfold maxOf
  rw [List.foldl_max_eq_max (List.ne_nil_of_mem h)]
  exact Nat.le_trans (List.le_max_of_mem h) (Nat.le_max_right _ _)

theorem le_ceilDiv_mul (a : Nat) {b : Nat} (hb : 0 < b) : a ≤ ceilDiv a b * b := by
  have := Nat.lt_div_mul_add (a := a + b - 1) hb
  unfold ceilDiv
  omega

theorem ceilDiv_le_of_le_mul {a b n : Nat} (hb : 0 < b) (h : a ≤ b * n) : ceilDiv a b ≤ n := by
  refine Nat.le_of_lt_succ (Nat.div_lt_of_lt_mul ?_)
  rw [Nat.mul_succ]
  omega

/-- HMAX and VMAX bound the factors of the frame's components (R51). -/
theorem State.le_maxFactors (s : State) {c : Nat} (hc : c < s.nf.toNat) :
    s.hOf c ≤ maxOf (s.frameComps.map s.hOf) ∧ s.vOf c ≤ maxOf (s.frameComps.map s.vOf) :=
  ⟨le_maxOf (List.mem_map_of_mem (List.mem_range.mpr hc)), le_maxOf (List.mem_map_of_mem (List.mem_range.mpr hc))⟩

/-- The blocks of a component fit into the whole MCUs that cover the frame (R51, R226). -/
theorem ceilDiv_ceilDiv_le {x f fmax : Nat} (hmax : 0 < fmax) :
    ceilDiv (ceilDiv (x * f) fmax) 8 ≤ ceilDiv x (8 * fmax) * f := by
  have h := le_ceilDiv_mul x (show 0 < 8 * fmax by omega)
  refine ceilDiv_eight_le (ceilDiv_le_of_le_mul hmax ?_)
  calc x * f ≤ ceilDiv x (8 * fmax) * (8 * fmax) * f := Nat.mul_le_mul_right f h
    _ = fmax * (8 * (ceilDiv x (8 * fmax) * f)) := by ring

theorem mul_add_lt_mul {a n k f : Nat} (ha : a < n) (hk : k < f) : a * f + k < n * f :=
  calc a * f + k < (a + 1) * f := by rw [Nat.succ_mul]; omega
    _ ≤ n * f := Nat.mul_le_mul_right f ha

namespace State.Legal

variable {s : State} (h : s.Legal)
include h

section
variable (hs : s.sess = .started)
include hs

theorem mcux_eq : s.mcux = ceilDiv s.fx.toNat (8 * maxOf (s.frameComps.map s.hOf)) := by
  obtain ⟨-, -, hx, -, -⟩ := h.geometry hs
  exact hx.symm

theorem mcuy_eq : s.mcuy = ceilDiv s.fy.toNat (8 * maxOf (s.frameComps.map s.vOf)) := by
  obtain ⟨-, -, -, hy, -⟩ := h.geometry hs
  exact hy.symm

variable {c : Nat} (hc : c < s.nf.toNat)
include hc

theorem geom_get : s.geom.get c =
    s.geomOf (maxOf (s.frameComps.map s.hOf)) (maxOf (s.frameComps.map s.vOf)) s.mcux s.mcuy c := by
  obtain ⟨-, -, hx, hy, hgeom⟩ := h.geometry hs
  rw [← hgeom, s.withGeometry_get hc, hx, hy]

theorem factors_of_frame : 1 ≤ s.hOf c ∧ s.hOf c ≤ 4 ∧ 1 ≤ s.vOf c ∧ s.vOf c ≤ 4 := by
  obtain ⟨-, -, -, hset⟩ := h.opened (.inl hs)
  obtain ⟨hcset, -⟩ := hset c hc
  exact h.factors c (s.lt_three_of_mem_frameComps c (List.mem_range.mpr hc)) hcset

theorem blocks_le_plane : s.blocksWide c ≤ (s.geom.get c).pbw ∧ s.blocksHigh c ≤ (s.geom.get c).pbh := by
  obtain ⟨hh, -, hv, -⟩ := h.factors_of_frame hs hc
  obtain ⟨hhmax, hvmax⟩ := s.le_maxFactors hc
  unfold State.blocksWide State.blocksHigh
  rw [h.geom_get hs hc, h.mcux_eq hs, h.mcuy_eq hs]
  exact ⟨ceilDiv_ceilDiv_le (by omega), ceilDiv_ceilDiv_le (by omega)⟩

/-- The block positions of a plane fit the two halves of ARG (R113). -/
theorem plane_le : (s.geom.get c).pbw ≤ 65536 ∧ (s.geom.get c).pbh ≤ 65536 := by
  obtain ⟨hh, hh4, hv, hv4⟩ := h.factors_of_frame hs hc
  obtain ⟨hhmax, hvmax⟩ := s.le_maxFactors hc
  have := s.fx.isLt
  have := s.fy.isLt
  rw [h.geom_get hs hc]
  have hx : s.mcux ≤ 8192 := h.mcux_eq hs ▸ ceilDiv_le_of_le_mul (by omega) (by omega)
  have hy : s.mcuy ≤ 8192 := h.mcuy_eq hs ▸ ceilDiv_le_of_le_mul (by omega) (by omega)
  exact ⟨Nat.le_trans (Nat.mul_le_mul hx hh4) (by decide), Nat.le_trans (Nat.mul_le_mul hy hv4) (by decide)⟩

end

variable (ha : s.scanact = true)
include ha

theorem slotComp_lt {i : Nat} (hi : i < s.ns.toNat) : s.slotComp i < s.nf.toNat := by
  obtain ⟨-, hnf, hslots, -⟩ := h.scan ha
  have := s.nf.isLt
  obtain ⟨hset, -⟩ := hslots i hi
  exact h.slots i (by omega) hset

/-- Every block of an MCU of the scan lies inside the plane of its component (R225 to R227). -/
theorem mcuBlock_inside {m : Nat} {b : McuBlock} (hm : m < s.mcutot.toNat) (hb : b ∈ s.mcuBlocks m) :
    b.slot < s.ns.toNat ∧ b.comp = s.slotComp b.slot ∧ b.comp < s.nf.toNat ∧
      b.col < (s.geom.get b.comp).pbw ∧ b.row < (s.geom.get b.comp).pbh := by
  have hs := h.scanStarted ha
  obtain ⟨hns, -, -, -, -, htot, -⟩ := h.scan ha
  rw [htot, State.scanMcus] at hm
  unfold State.mcuBlocks at hb
  split at hb <;> rename_i h1
  · rw [if_pos h1] at hm
    simp only [State.interleavedBlocks, List.mem_flatMap, List.mem_map, List.mem_range] at hb
    obtain ⟨i, hi, j, hj, k, hk, rfl⟩ := hb
    have hc := h.slotComp_lt ha hi
    refine ⟨hi, rfl, hc, ?_⟩
    rw [h.geom_get hs hc]
    have hpos : 0 < s.mcux := Nat.pos_of_ne_zero fun h0 => by simp [h0] at hm
    exact ⟨mul_add_lt_mul (Nat.mod_lt m hpos) hk, mul_add_lt_mul (Nat.div_lt_of_lt_mul hm) hj⟩
  · rw [if_neg h1] at hm
    obtain rfl := List.mem_singleton.mp hb
    have hc := h.slotComp_lt ha (show 0 < s.ns.toNat by omega)
    obtain ⟨hw, hh⟩ := h.blocks_le_plane hs hc
    have hpos : 0 < s.blocksWide (s.slotComp 0) := Nat.pos_of_ne_zero fun h0 => by simp [h0] at hm
    exact ⟨by dsimp only [State.singleBlock]; omega, rfl, hc, Nat.lt_of_lt_of_le (Nat.mod_lt m hpos) hw,
      Nat.lt_of_lt_of_le (Nat.div_lt_of_lt_mul hm) hh⟩

end State.Legal

/-! One block by hand (R120). -/

/-- What PIPE_BLOCK needs of the state and of a block besides its bits: every check of its four commands. -/
structure State.BlockReady (s : State) (b : McuBlock) : Prop where
  started : s.sess = .started
  scanning : s.scanact = true
  slot : b.slot < s.ns.toNat
  slotId : b.slot < 4
  comp : b.comp < s.nf.toNat
  loaded : (s.quant (s.cfg b.comp).tq).qvalid = true
  col : b.col < (s.geom.get b.comp).pbw
  row : b.row < (s.geom.get b.comp).pbh
  position : b.col < 65536 ∧ b.row < 65536

theorem State.Legal.blockReady {s : State} (h : s.Legal) (ha : s.scanact = true) {m : Nat} {b : McuBlock}
    (hm : m < s.mcutot.toNat) (hb : b ∈ s.mcuBlocks m) : s.BlockReady b := by
  have hs := h.scanStarted ha
  obtain ⟨hslot, -, hcomp, hcol, hrow⟩ := h.mcuBlock_inside ha hm hb
  obtain ⟨-, hnf, -⟩ := h.scan ha
  obtain ⟨-, -, -, hset⟩ := h.opened (.inl hs)
  obtain ⟨-, hloaded⟩ := hset _ hcomp
  obtain ⟨hw, hh⟩ := h.plane_le hs hcomp
  have := s.nf.isLt
  exact ⟨hs, ha, hslot, by omega, hcomp, hloaded, hcol, hrow, by omega, by omega⟩

/-- Decoding and storing other blocks leaves a block ready. -/
theorem State.BlockReady.of_sameButMcu {s t : State} {b : McuBlock} (h : s.BlockReady b) (ht : s.SameButMcu t) :
    t.BlockReady b := by
  cases ht
  exact { h with }

/-- ARG, RES and RESULT set: what issuing a command by hand leaves besides its effect. -/
def State.withCommand (a k : Word) (r : Result) (s : State) : State := { s with arg := a, res := k, result := r }

theorem State.BlockReady.withCommand {s : State} {b : McuBlock} (h : s.BlockReady b) (a k : Word) (r : Result) :
    (s.withCommand a k r).BlockReady b := { h with }

theorem State.mcuBlock_withCommand (a k : Word) (r : Result) (s : State) (b : McuBlock) :
    (s.withCommand a k r).mcuBlock b = State.withCommand a k r <$> s.mcuBlock b := by
  unfold State.mcuBlock State.decodeBlock
  simp only [bind_assoc]
  exact bind_eq_map_bind_same fun _ _ => rfl

/-- The block position as PIPE_BLOCK writes it to ARG (R113, R120). -/
def McuBlock.position (b : McuBlock) : Word := BitVec.ofNat 32 (b.row * 65536 + b.col)

theorem McuBlock.position_halves {b : McuBlock} (h : b.col < 65536 ∧ b.row < 65536) (s : State) :
    ({ s with arg := b.position } : State).argLow.toNat = b.col ∧
    ({ s with arg := b.position } : State).argHigh.toNat = b.row := by
  simp only [State.argLow, State.argHigh, McuBlock.position, BitVec.extractLsb'_toNat, BitVec.toNat_ofNat,
    Nat.shiftRight_eq_div_pow]
  omega

/-- The last two steps of PIPE_BLOCK: SAMP goes to the block's place in its plane. -/
theorem exec_putBlock_of_ready {s : State} {b : McuBlock} (hb : s.BlockReady b) :
    exec (.putBlock (BitVec.ofNat 2 b.comp)) { s with arg := b.position } = .next
      { s with
        arg := b.position, result := .ok
        planes := s.planes.set b.comp (Plane.putBlock (s.planes.get b.comp) b.col b.row s.samp) } := by
  have hcomp : (BitVec.ofNat 2 b.comp).toNat = b.comp :=
    (BitVec.toNat_ofNat _ _).trans (Nat.mod_eq_of_lt (Nat.lt_trans hb.comp s.nf.isLt))
  obtain ⟨hcol, hrow⟩ := b.position_halves hb.position s
  have hnf := hb.comp
  have := s.nf.isLt
  have hput := (Completes.putBlock (s := { s with arg := b.position }) (c := BitVec.ofNat 2 b.comp) (by omega) hb.started
    (hcomp.symm ▸ hnf) ⟨by rw [hcol, hcomp]; exact hb.col, by rw [hrow, hcomp]; exact hb.row⟩).exec_eq
  rwa [hcol, hrow, hcomp] at hput

theorem andThen_eq {a x : Answer} {t : State} {f : State → Answer} (ha : a = .next t) (hf : f t = x) : andThen a f = x := by
  rw [ha]
  exact hf

/-- PIPE_BLOCK does to a ready block what DEC_MCU does to it. -/
theorem pipeBlock_eq {s u : State} {b : McuBlock} (hb : s.BlockReady b) (h : s.mcuBlock b = .ok u) :
    ∃ a k, pipeBlock s b = .next (u.withCommand a k .ok) := by
  obtain ⟨t, kend, hd, rfl⟩ := State.mcuBlock_cases h
  have hslot : (BitVec.ofNat 2 b.slot).toNat = b.slot :=
    (BitVec.toNat_ofNat _ _).trans (Nat.mod_eq_of_lt hb.slotId)
  have hdecode := (Completes.decBlock (i := BitVec.ofNat 2 b.slot) hb.started hb.scanning (hslot.symm ▸ hb.slot)
    (hslot.symm ▸ hd)).exec_eq
  obtain ⟨r, -, -, rfl⟩ := State.decodeBlock_cases hd
  refine ⟨b.position, BitVec.ofNat 32 kend, ?_⟩
  refine andThen_eq hdecode ?_
  refine andThen_eq (Completes.dequant ?_ ?_).exec_eq ?_
  · exact hb.started
  · exact hb.loaded
  refine andThen_eq (Completes.idct ?_).exec_eq ?_
  · exact hb.started
  exact exec_putBlock_of_ready { hb with }

/-- PIPE_BLOCK for each block in turn does to ready blocks what DEC_MCU does to them, whatever ARG and RES held before. -/
theorem pipeBlocks_eq {bs : List McuBlock} {s u : State} (hb : ∀ b ∈ bs, s.BlockReady b)
    (h : bs.foldlM State.mcuBlock s = .ok u) (a k : Word) :
    ∃ a' k', pipeBlocks bs (s.withCommand a k .ok) = .next (u.withCommand a' k' .ok) := by
  induction bs generalizing s a k with
  | nil =>
    cases h
    exact ⟨a, k, rfl⟩
  | cons b bs ih =>
    obtain ⟨v, hv, h⟩ := except_bind_eq_ok.mp h
    obtain ⟨hready, hrest⟩ := List.forall_mem_cons.mp hb
    have hv' : (s.withCommand a k .ok).mcuBlock b = .ok (v.withCommand a k .ok) := by
      rw [State.mcuBlock_withCommand, hv]
      rfl
    obtain ⟨a', k', hpipe⟩ := pipeBlock_eq (hready.withCommand a k .ok) hv'
    obtain ⟨a'', k'', hpipes⟩ :=
      ih (fun c hc => (hrest c hc).of_sameButMcu (State.sameButMcu_mcuBlock hv)) h a' k'
    exact ⟨a'', k'', andThen_eq hpipe hpipes⟩

/-- No command reads RESULT, so neither does the pipeline, once it issues one. -/
theorem pipeBlocks_putResult (b : McuBlock) (bs : List McuBlock) (r : Result) (s : State) :
    pipeBlocks (b :: bs) (s.putResult r) = pipeBlocks (b :: bs) s := by
  simp only [pipeBlocks, pipeBlock, exec_putResult]

/-- An MCU of a scan has a block (R225, R226). -/
theorem State.Legal.mcuBlocks_ne_nil {s : State} (h : s.Legal) (ha : s.scanact = true) (m : Nat) : s.mcuBlocks m ≠ [] := by
  unfold State.mcuBlocks
  split
  · have hpos : 0 < s.ns.toNat := by omega
    obtain ⟨hh, -, hv, -⟩ := h.factors_of_frame (h.scanStarted ha) (h.slotComp_lt ha hpos)
    refine List.ne_nil_of_mem (List.mem_flatMap.mpr ⟨0, List.mem_range.mpr hpos, List.mem_flatMap.mpr
      ⟨0, List.mem_range.mpr hv, List.mem_map.mpr ⟨0, List.mem_range.mpr hh, rfl⟩⟩⟩)
  · exact List.cons_ne_nil _ _

/-- Settles O46: DEC_MCU decodes and stores the blocks of its MCU, and each of them is ready for PIPE_BLOCK. -/
theorem decMcuEqualsHandPipeline : Obligations.DecMcuEqualsHandPipeline := by
  unfold Obligations.DecMcuEqualsHandPipeline
  intro s t hl ha hdue h hr
  obtain ⟨u, hu, rfl⟩ := exec_eq_ok h hr
  cases hu with
  | @decMcu _ s1 s2 _ _ hm h1 h2 =>
    obtain rfl : s = s1 := by
      rw [State.restartIfDue, hdue] at h1
      exact Except.ok.inj h1
    obtain ⟨a, k, hpipe⟩ := pipeBlocks_eq (fun b hb => hl.blockReady ha hm hb) h2 s.arg s.res
    obtain ⟨b, bs, hbs⟩ := List.exists_cons_of_ne_nil (hl.mcuBlocks_ne_nil ha s.mcucnt.toNat)
    rw [hbs] at hpipe ⊢
    refine ⟨a, k, (pipeBlocks_putResult b bs .ok s).symm.trans (hpipe.trans ?_)⟩
    have hcnt : s2.mcucnt = s.mcucnt := by
      cases State.sameButMcu_decMcu h1 h2; rfl
    rw [← hcnt]
    rfl

end Sys2Proof.Machine

/-! # The family 41_control.md: the session commands -/

/-! ## The lines every command rule begins with -/

namespace Sys2Proof.Machine

/-! A command that passes a check goes on with the rest, and one that fails it ends there (R313). -/

section
variable {op : BitVec 6} {s : State} {p : Prop} [Decidable p] {f : Unit → Except Raise State}

theorem complete_require {e : Raise} (h : p) : complete op s (require p e >>= f) = complete op s (f ()) := by
  rw [require_true e h, except_ok_bind]

theorem complete_require_precond {c : PvCause} (h : ¬ p) :
    complete op s (require p (.precond c) >>= f) = .next (s.refuse op c) := by
  rw [require_false _ h, except_error_bind, complete_precond]

theorem complete_require_decodeError {c : ErrCause} (h : ¬ p) :
    complete op s (require p (.decodeError c) >>= f) = .next (s.decodeError op c) := by
  rw [require_false _ h, except_error_bind, complete_decodeError]

theorem complete_stateCheck {a : Allowed} (h : stateCause a s.sess s.scanact = none) :
    complete op s (stateCheck a s >>= f) = complete op s (f ()) := by
  rw [stateCheck_eq_ok.mpr h, except_ok_bind]

theorem complete_stateCheck_precond {a : Allowed} {c : PvCause} (h : stateCause a s.sess s.scanact = some c) :
    complete op s (stateCheck a s >>= f) = .next (s.refuse op c) := by
  rw [stateCheck, h, except_error_bind, complete_precond]

end

/-! The field check and the state check (R117, R318, R320). -/

/-- The states a command's rule allows, the state check that FINISH makes in two steps as one (R143, R320). None are named for
the commands that every state allows. -/
def allowedStates : Instr → Option Allowed
  | .sreset | .abort | .ccPix => none
  | .setInput | .start _ | .setFrame _ _ | .setComp _ _ _ _ => some .emptyOnly
  | .rdBuf _ _ => some .notFailed
  | .loadQt _ _ | .loadHt _ _ | .setDri => some .emptyOrNoScan
  | .finish | .setScanComp _ _ _ _ | .startScan _ => some .startedNoScan
  | .decHuff _ _ | .getBits _ | .getExt _ | .decBlock _ | .decMcu | .scanEnd => some .startedScan
  | .dequant _ | .idct | .putBlock _ | .ccRow => some .started

/-- R320's table is the state check of each command's allowed states. -/
theorem stateTable_column (i : Instr) (s : State) :
    stateTable i s.column = (allowedStates i).bind fun a => stateCause a s.sess s.scanact := by
  unfold State.column
  generalize s.sess = x, s.scanact = b
  cases i <;> cases x <;> cases b <;> rfl

/-- FINISH's first two checks are the state check of STARTED with no scan active (R143, R320). -/
theorem stateCheck_started_bind (s : State) {β : Type} (k : Unit → Except Raise β) :
    (stateCheck .started s >>= fun _ => require (s.scanact = false) (.precond .scanActive) >>= k) =
      (stateCheck .startedNoScan s >>= k) := by
  unfold stateCheck
  cases s.sess <;> cases hb : s.scanact <;> simp [stateCause]

/-- A command whose block fields are in range begins with its state check (R318). -/
theorem exec_eq_stateCheck {i : Instr} {a : Allowed} (hwf : i.wf = true) (ha : allowedStates i = some a) (s : State) :
    ∃ k, exec i s = complete i.op s (stateCheck a s >>= k) := by
  cases i <;> cases ha
  case start | setComp | setScanComp | putBlock | getBits | getExt =>
    exact ⟨_, complete_require (of_decide_eq_true hwf)⟩
  case rdBuf sel idx =>
    obtain ⟨hsel, hidx⟩ : sel.toNat ≤ 3 ∧ (sel.toNat ≠ 3 ∨ idx.toNat ≤ 2) := by simpa [Instr.wf] using hwf
    exact ⟨_, (complete_require hsel).trans (complete_require hidx)⟩
  case finish => exact ⟨_, congrArg (complete 0x04 s) (stateCheck_started_bind s _)⟩
  case ccRow =>
    simp only [exec, execCcRow, rowChecks, bind_assoc]
    exact ⟨_, rfl⟩
  all_goals exact ⟨_, rfl⟩

/-- A command whose block fields are in range is refused in the columns where R320's table says no, with the table's cause. -/
theorem exec_stateRefused {i : Instr} (hwf : i.wf = true) {s : State} {c : PvCause} (hc : stateTable i s.column = some c) :
    exec i s = .next (s.refuse i.op c) := by
  rw [stateTable_column] at hc
  obtain ⟨a, ha, hcause⟩ := Option.bind_eq_some_iff.mp hc
  obtain ⟨k, hk⟩ := exec_eq_stateCheck hwf ha s
  exact hk.trans (complete_stateCheck_precond hcause)

/-- Every command's rule begins as R116, R117 and R320 say. -/
theorem commandFront (i : Instr) (s : State) : CommandFront (encode i) i s :=
  ⟨decodeOfEncode i, fun hwf => exec_badField hwf s, fun _ hwf hc => exec_stateRefused hwf hc⟩

end Sys2Proof.Machine

/-! ## O22 and O24 to O26: SET_INPUT, FINISH, ABORT, RD_BUF -/

namespace Sys2Proof.Machine

/-- Settles O22, by `commandFront` and the command's one way to complete. -/
theorem setInputTakesLength : Obligations.SetInputTakesLength := by
  unfold Obligations.SetInputTakesLength
  exact fun s => ⟨commandFront .setInput s, fun hs => (Completes.setInput hs).exec_eq⟩

/-- FINISH in STARTED with no scan active goes on to its own two checks (R143). -/
theorem exec_finish_of_noScan {s : State} (hs : s.sess = .started) (ha : s.scanact = false) :
    exec .finish s = complete 0x04 s (do
      require (¬ s.row.toNat < s.height.toNat) (.precond .rowsPending)
      require (s.marker = 0xD9) (.decodeError .noEoi)
      .ok { s.clearPlanes with sess := .finished, inSession := false }) :=
  (complete_stateCheck (stateCause_started.mpr hs)).trans (complete_require ha)

/-- Settles O24: the front has SCAN_ACTIVE, and the two checks after it fail one at a time. -/
theorem finishClosesSession : Obligations.FinishClosesSession := by
  unfold Obligations.FinishClosesSession
  refine fun s => ⟨commandFront .finish s, fun hs ha => ?_, fun hs ha hr => ?_, fun hs ha hr hm => ?_, fun hs ha hr hm => ?_⟩
  · exact exec_stateRefused rfl (by simp [State.column, hs, ha, stateTable])
  · exact (exec_finish_of_noScan hs ha).trans (complete_require_precond (not_not.mpr hr))
  · refine (exec_finish_of_noScan hs ha).trans ?_
    exact (complete_require (Nat.not_lt.mpr hr)).trans (complete_require_decodeError hm)
  · exact (Completes.finish hs ha hr hm).exec_eq

/-- Settles O25, by the two ways ABORT completes. -/
theorem abortNeverFails : Obligations.AbortNeverFails := by
  unfold Obligations.AbortNeverFails
  refine fun s => ⟨decodeOfEncode .abort, fun hs => (Completes.abortSession hs).exec_eq, fun hs => ?_⟩
  refine (Completes.abortNoop ?_).exec_eq
  rcases hs with hs | hs | hs <;> simp [hs]

theorem at64_lt {w : Nat} (v : Vector (BitVec w) 64) {i : Nat} (h : i < 64) : at64 v i = v[i] := by
  simp [at64_eq, h]

/-- Settles O26: the four buffers, each element extended to 32 bits. -/
theorem rdBufReadsElement : Obligations.RdBufReadsElement := by
  unfold Obligations.RdBufReadsElement
  refine fun sel idx s => ⟨commandFront (.rdBuf sel idx) s, fun hsel hidx hs => ?_⟩
  have hok : sel.toNat ≠ 3 ∨ idx.toNat ≤ 2 := by tauto
  refine ⟨s.bufElement sel idx, (Completes.rdBuf hsel hok hs).exec_eq, fun h => ?_, fun h => ?_, fun h => ?_, fun h => ?_⟩
  all_goals simp only [State.bufElement, h]
  · rw [at64_lt _ idx.isLt, BitVec.toInt_signExtend_of_le (by decide)]
  · rw [at64_lt _ idx.isLt]
  · rw [at64_lt _ idx.isLt, BitVec.toNat_setWidth_of_le (by decide)]
  · rw [BitVec.toInt_signExtend_of_le (by decide)]

end Sys2Proof.Machine

/-! ## O23: START -/

namespace Sys2Proof.Machine

/-! HMAX and VMAX are the largest factors, and they fit their registers (R51). -/

theorem maxOf_mem {l : List Nat} (h : l ≠ []) : maxOf l ∈ l := by
  unfold maxOf
  rw [List.foldl_max_eq_max h, Nat.zero_max]
  exact List.max_mem h

theorem maxOf_le {l : List Nat} {n : Nat} (h : ∀ a ∈ l, a ≤ n) : maxOf l ≤ n := by
  by_cases hl : l = []
  · simp [hl, maxOf]
  · exact h _ (maxOf_mem hl)

/-- The largest factor f c of the frame's components fits four bits. -/
theorem State.toNat_ofNat_maxFactor (s : State) {f : Nat → Nat} (hf : ∀ c, f c < 2 ^ 4) :
    (BitVec.ofNat 4 (maxOf (s.frameComps.map f))).toNat = maxOf (s.frameComps.map f) := by
  refine (BitVec.toNat_ofNat _ _).trans (Nat.mod_eq_of_lt (Nat.lt_succ_of_le (maxOf_le fun a ha => ?_)))
  obtain ⟨c, -, rfl⟩ := List.mem_map.mp ha
  exact Nat.le_of_lt_succ (hf c)

theorem State.withGeometry_hmax_toNat (s : State) : s.withGeometry.hmax.toNat = maxOf (s.frameComps.map s.hOf) :=
  s.toNat_ofNat_maxFactor fun c => (s.cfg c).h.isLt

theorem State.withGeometry_vmax_toNat (s : State) : s.withGeometry.vmax.toNat = maxOf (s.frameComps.map s.vOf) :=
  s.toNat_ofNat_maxFactor fun c => (s.cfg c).v.isLt

/-- Some component of the frame has the largest factor. -/
theorem State.exists_maxFactor (s : State) (f : Nat → Nat) (h : 1 ≤ s.nf.toNat) :
    ∃ c < s.nf.toNat, f c = maxOf (s.frameComps.map f) := by
  have hne : s.frameComps.map f ≠ [] := List.ne_nil_of_mem (List.mem_map_of_mem (List.mem_range.mpr h))
  obtain ⟨c, hc, hmax⟩ := List.mem_map.mp (maxOf_mem hne)
  exact ⟨c, List.mem_range.mp hc, hmax⟩

/-- START in EMPTY with its field in range goes on to its own three checks (R142). -/
theorem exec_start_of_empty {s : State} {ord : BitVec 2} (hord : ord.toNat ≤ 1) (hs : s.sess = .empty) :
    exec (.start ord) s = complete 0x03 s (do
      require (s.frameset = true) (.precond .noFrame)
      require (∀ c ∈ s.frameComps, (s.cfg c).cset = true) (.precond .compUnset)
      require (∀ c ∈ s.frameComps, (s.quant (s.cfg c).tq).qvalid = true) (.decodeError .qtUndefined)
      .ok { s.withGeometry.clearPlanes with
            width := s.fx, height := s.fy, row := 0, corder := channelOrder ord, sess := .started }) :=
  (complete_require hord).trans (complete_stateCheck (stateCause_emptyOnly.mpr hs))

theorem State.forall_frameComps {s : State} {p : Nat → Prop} : (∀ c ∈ s.frameComps, p c) ↔ ∀ c < s.nf.toNat, p c := by
  simp only [State.frameComps, List.mem_range]

/-- A check of the frame's components fails where one of them does not pass it. -/
theorem State.not_forall_frameComps {s : State} {p : Nat → Bool} (h : ∃ c < s.nf.toNat, p c = false) :
    ¬ ∀ c ∈ s.frameComps, p c = true := by
  obtain ⟨c, hc, hp⟩ := h
  exact fun hall => nomatch hp.symm.trans (State.forall_frameComps.mp hall c hc)

/-- Settles O23: its three checks fail one at a time, and the geometry is the one of `State.withGeometry`. -/
theorem startOpensSession : Obligations.StartOpensSession := by
  unfold Obligations.StartOpensSession
  refine fun ord s => ⟨commandFront (.start ord) s, fun hord hs hf => ?_, fun hord hs hf hc => ?_,
    fun hord hs hf hc hq => ?_, fun hord hs hf hcq => ?_⟩
  · exact (exec_start_of_empty hord hs).trans (complete_require_precond (Bool.eq_false_iff.mp hf))
  · refine (exec_start_of_empty hord hs).trans ((complete_require hf).trans ?_)
    exact complete_require_precond (State.not_forall_frameComps hc)
  · refine (exec_start_of_empty hord hs).trans ((complete_require hf).trans ?_)
    refine (complete_require (State.forall_frameComps.mpr hc)).trans ?_
    exact complete_require_decodeError (State.not_forall_frameComps hq)
  · obtain ⟨hc, hq⟩ := forall₂_and.mp hcq
    refine ⟨_, (Completes.start hord hs hf hc hq).exec_eq, rfl, ?_⟩
    dsimp only [State.clearPlanes_hmax, State.clearPlanes_vmax, State.clearPlanes_mcux, State.clearPlanes_mcuy,
      State.clearPlanes_geom]
    rw [s.withGeometry_hmax_toNat, s.withGeometry_vmax_toNat]
    refine ⟨fun c hc => s.le_maxFactors hc, fun hn => ⟨s.exists_maxFactor s.hOf hn, s.exists_maxFactor s.vOf hn⟩, rfl, rfl,
      fun c hc => ?_⟩
    rw [s.withGeometry_get hc]
    exact ⟨rfl, rfl, rfl, rfl⟩

end Sys2Proof.Machine

/-! # The family 42_config.md: tables, frame and scan configuration -/

/-! ## O27: LOAD_QT -/

namespace Sys2Proof.Machine

/-- LOAD_QT in an allowed state goes on to its own three checks (R170). -/
theorem exec_loadQt_of_allowed {pq tq : BitVec 4} {s : State}
    (hs : s.sess = .empty ∨ (s.sess = .started ∧ s.scanact = false)) :
    exec (.loadQt pq tq) s = complete 0x08 s (do
      require (pq.toNat ≤ 1) (.decodeError .badQtPrecision)
      require (tq.toNat ≤ 3) (.decodeError .badTableId)
      require (¬ s.inLen.toNat < s.arg.toNat + 64 * (pq.toNat + 1)) (.decodeError .truncTable)
      .ok { s with
            qt := s.qt.set tq.toNat ⟨true, scatterZigzag (s.quantEntry pq.toNat s.arg.toNat)⟩
            res := BitVec.ofNat 32 (64 * (pq.toNat + 1)) }) :=
  complete_stateCheck (stateCause_emptyOrNoScan.mpr hs)

/-- An entry of an 8-bit table is one byte (R170). -/
theorem State.quantEntry_byte_toNat (s : State) (a k : Nat) : (s.quantEntry 0 a k).toNat = (s.inByte (a + k)).toNat := by
  rw [State.quantEntry, if_pos rfl, BitVec.toNat_ofNat]
  omega

/-- An entry of a 16-bit table is two bytes, the high one first (R86, R170). -/
theorem State.quantEntry_word_toNat (s : State) (a k : Nat) :
    (s.quantEntry 1 a k).toNat = (s.inByte (a + 2 * k)).toNat * 256 + (s.inByte (a + 2 * k + 1)).toNat := by
  rw [State.quantEntry, if_neg Nat.one_ne_zero, BitVec.toNat_ofNat]
  omega

/-- Settles O27: its three checks fail one at a time, and entry k goes to ZZ[k] by `at64_scatterZigzag`. -/
theorem loadQtLoadsTable : Obligations.LoadQtLoadsTable := by
  unfold Obligations.LoadQtLoadsTable
  refine fun pq tq s => ⟨commandFront (.loadQt pq tq) s, fun hs => ⟨fun hpq => ?_, fun hpq htq => ?_,
    fun hpq htq hlen => ?_, fun hpq htq hlen => ?_⟩⟩
  · rw [exec_loadQt_of_allowed hs, complete_require_decodeError (Nat.not_le.mpr hpq)]
  · rw [exec_loadQt_of_allowed hs, complete_require hpq, complete_require_decodeError (Nat.not_le.mpr htq)]
  · rw [exec_loadQt_of_allowed hs, complete_require hpq, complete_require htq,
      complete_require_decodeError (not_not.mpr hlen)]
  · refine ⟨_, (Completes.loadQt hs hpq htq hlen).exec_eq, fun h k hk => ?_, fun h k hk => ?_⟩
    · rw [at64_scatterZigzag _ hk, h]
      exact s.quantEntry_byte_toNat s.argOffset k
    · rw [at64_scatterZigzag _ hk, h]
      exact s.quantEntry_word_toNat s.argOffset k

end Sys2Proof.Machine

/-! ## O28 and O29: LOAD_HT -/

namespace Sys2Proof.Machine

/-! The symbols that LOAD_HT reads (R171). -/

/-- The number of symbols is the sum of the counts (R171, R176). -/
theorem symEnd_eq_sum_take (bits : Vector Byte 16) {n : Nat} (hn : n ≤ 16) :
    symEnd bits n = ((bits.toList.map BitVec.toNat).take n).sum := by
  induction n with
  | zero => rfl
  | succ n ih =>
    have hlen : n < (bits.toList.map BitVec.toNat).length := by simpa using hn
    have hn' : n < 16 := hn
    rw [symEnd, ih (Nat.le_of_lt hn), List.sum_take_succ _ _ hlen]
    simp [countAt, Vector.getD, hn']

theorem symEnd_eq_sum (bits : Vector Byte 16) : symEnd bits 16 = (bits.toList.map BitVec.toNat).sum := by
  rw [symEnd_eq_sum_take bits le_rfl, List.take_of_length_le (by simp)]

@[simp] theorem State.huffSymbols_length (s : State) (a m : Nat) : (s.huffSymbols a m).length = m := by
  simp [State.huffSymbols]

theorem State.huffSymbols_getD (s : State) (a : Nat) {m j : Nat} (hj : j < m) :
    (s.huffSymbols a m).getD j 0 = s.inByte (a + 16 + j) := by
  simp [State.huffSymbols, hj]

theorem State.forall_huffSymbols {s : State} {a m : Nat} {p : Byte → Prop} :
    (∀ b ∈ s.huffSymbols a m, p b) ↔ ∀ j < m, p (s.inByte (a + 16 + j)) := by
  simp [State.huffSymbols]

/-! What BuildHuff builds (R176). -/

theorem exists_buildHuff {bits : Vector Byte 16} (h : codesFit bits = true) (symbols : List Byte) :
    ∃ t, buildHuff bits symbols = .ok t :=
  ⟨_, if_pos h⟩

theorem buildHuff_of_not_codesFit {bits : Vector Byte 16} (h : codesFit bits = false) (symbols : List Byte) :
    buildHuff bits symbols = .error (.decodeError .htCodespace) :=
  if_neg (Bool.eq_false_iff.mp h)

theorem buildHuff_eq_ok {bits : Vector Byte 16} {symbols : List Byte} {t : HuffTable}
    (h : buildHuff bits symbols = .ok t) : t.hvalid = true ∧ t.bits = bits ∧ t.huffval = symbols := by
  unfold buildHuff at h
  split at h <;> cases h
  exact ⟨rfl, rfl, rfl⟩

/-- FIRST by R176's recurrence: the next length starts at twice the code after the last one. -/
theorem firstCode_succ (bits : Vector Byte 16) {l : Nat} (h : 1 ≤ l) :
    firstCode bits (l + 1) = 2 * (firstCode bits l + countAt bits l) := by
  obtain ⟨k, rfl⟩ := Nat.exists_eq_add_of_le' h
  rfl

theorem symOffset_succ (bits : Vector Byte 16) {l : Nat} (h : 1 ≤ l) :
    symOffset bits (l + 1) = symOffset bits l + countAt bits l := by
  obtain ⟨k, rfl⟩ := Nat.exists_eq_add_of_le' h
  rfl

/-- A valid built table has FIRST and OFF by the recurrence of R176. -/
theorem HuffTable.Built.recurrence {t : HuffTable} {dc : Bool} (h : t.Built dc) (hv : t.hvalid = true) :
    t.firstAt 1 = 0 ∧ t.offAt 1 = 0 ∧ ∀ l, 1 ≤ l → l < 16 →
      t.firstAt (l + 1) = 2 * (t.firstAt l + t.bitsAt l) ∧ t.offAt (l + 1) = t.offAt l + t.bitsAt l := by
  obtain ⟨-, hcodes, -⟩ := h hv
  obtain ⟨hfirst, hoff⟩ := hcodes 1 (by decide) (by decide)
  refine ⟨hfirst, hoff, fun l hl hl16 => ?_⟩
  obtain ⟨hf, ho⟩ := hcodes l (by omega) hl
  obtain ⟨hf', ho'⟩ := hcodes (l + 1) (by omega) (Nat.succ_pos l)
  rw [hf', ho', hf, ho]
  exact ⟨firstCode_succ t.bits hl, symOffset_succ t.bits hl⟩

/-! The checks and the effect (R171). -/

/-- LOAD_HT in an allowed state goes on to its own seven checks, one of them BuildHuff's (R171, R176). -/
theorem exec_loadHt_of_allowed {tc th : BitVec 4} {s : State}
    (hs : s.sess = .empty ∨ (s.sess = .started ∧ s.scanact = false)) :
    exec (.loadHt tc th) s = complete 0x09 s (do
      require (tc.toNat ≤ 1) (.decodeError .badTableClass)
      require (th.toNat ≤ 3) (.decodeError .badTableId)
      require (¬ s.inLen.toNat < s.arg.toNat + 16) (.decodeError .truncTable)
      require (symEnd (s.huffCounts s.arg.toNat) 16 ≤ 256) (.decodeError .htCount)
      require (¬ s.inLen.toNat < s.arg.toNat + 16 + symEnd (s.huffCounts s.arg.toNat) 16) (.decodeError .truncTable)
      let t ← buildHuff (s.huffCounts s.arg.toNat)
        (s.huffSymbols s.arg.toNat (symEnd (s.huffCounts s.arg.toNat) 16))
      require (tc.toNat = 0 → ∀ b ∈ s.huffSymbols s.arg.toNat (symEnd (s.huffCounts s.arg.toNat) 16), b.toNat ≤ 15)
        (.decodeError .htDcSymbol)
      .ok { s.setHt (tc.setWidth 1) (th.setWidth 2) t with
            res := BitVec.ofNat 32 (16 + symEnd (s.huffCounts s.arg.toNat) 16) }) :=
  complete_stateCheck (stateCause_emptyOrNoScan.mpr hs)

/-- LOAD_HT whose fields, counts and number of symbols pass their checks goes on to BuildHuff and to the check of the symbols of
a DC table (R171). -/
theorem exec_loadHt_of_read {tc th : BitVec 4} {s : State}
    (hs : s.sess = .empty ∨ (s.sess = .started ∧ s.scanact = false)) (htc : tc.toNat ≤ 1) (hth : th.toNat ≤ 3)
    (hlen : s.arg.toNat + 16 + symEnd (s.huffCounts s.arg.toNat) 16 ≤ s.inLen.toNat)
    (hmax : symEnd (s.huffCounts s.arg.toNat) 16 ≤ 256) :
    exec (.loadHt tc th) s = complete 0x09 s (do
      let t ← buildHuff (s.huffCounts s.arg.toNat)
        (s.huffSymbols s.arg.toNat (symEnd (s.huffCounts s.arg.toNat) 16))
      require (tc.toNat = 0 → ∀ b ∈ s.huffSymbols s.arg.toNat (symEnd (s.huffCounts s.arg.toNat) 16), b.toNat ≤ 15)
        (.decodeError .htDcSymbol)
      .ok { s.setHt (tc.setWidth 1) (th.setWidth 2) t with
            res := BitVec.ofNat 32 (16 + symEnd (s.huffCounts s.arg.toNat) 16) }) := by
  rw [exec_loadHt_of_allowed hs, complete_require htc, complete_require hth,
    complete_require (Nat.not_lt.mpr (Nat.le_of_add_right_le hlen)), complete_require hmax,
    complete_require (Nat.not_lt.mpr hlen)]

/-- The table that a LOAD_HT class and id in range name (R42). -/
theorem State.setHt_setWidth (s : State) {tc th : BitVec 4} (htc : tc.toNat ≤ 1) (hth : th.toNat ≤ 3) (t : HuffTable) :
    s.setHt (tc.setWidth 1) (th.setWidth 2) t =
      if tc.toNat = 0 then { s with htDc := s.htDc.set th.toNat t } else { s with htAc := s.htAc.set th.toNat t } := by
  have hclass : tc.setWidth 1 = 0 ↔ tc.toNat = 0 := by
    bv_omega
  have hid : (th.setWidth 2).toNat = th.toNat := by
    rw [BitVec.toNat_setWidth]
    omega
  simp only [State.setHt, hclass, hid]

/-- LOAD_HT with counts and m symbols that pass its checks loads the table built from them (R171). -/
theorem exec_loadHt_eq {tc th : BitVec 4} {s : State} {counts : Vector Byte 16} {m : Nat} {t : HuffTable}
    (hs : s.sess = .empty ∨ (s.sess = .started ∧ s.scanact = false)) (htc : tc.toNat ≤ 1) (hth : th.toNat ≤ 3)
    (hcounts : s.huffCounts s.argOffset = counts) (hm : symEnd counts 16 = m)
    (hlen : s.argOffset + 16 + m ≤ s.inLen.toNat) (hmax : m ≤ 256)
    (ht : buildHuff counts (s.huffSymbols s.argOffset m) = .ok t)
    (hdc : tc.toNat = 0 → ∀ b ∈ s.huffSymbols s.argOffset m, b.toNat ≤ 15) :
    exec (.loadHt tc th) s = .next
      { s.setHt (tc.setWidth 1) (th.setWidth 2) t with res := BitVec.ofNat 32 (16 + m), result := .ok } := by
  subst hcounts hm
  exact (Completes.loadHt hs htc hth hlen hmax ht hdc).exec_eq

/-- Settles O28: BuildHuff succeeds on counts that fit, and the table it builds has R176's recurrence. -/
theorem loadHtBuildsTable : Obligations.LoadHtBuildsTable := by
  unfold Obligations.LoadHtBuildsTable
  intro tc th s counts m hs htc hth hcounts hm hlen hmax hfit hdc
  have hread : s.huffCounts s.argOffset = counts := Vector.ext fun l hl => by
    simp [State.huffCounts, hcounts l hl, State.argOffset]
  rw [← symEnd_eq_sum] at hm
  obtain ⟨t, ht⟩ := exists_buildHuff hfit (s.huffSymbols s.argOffset m)
  obtain ⟨hvalid, hbits, hsyms⟩ := buildHuff_eq_ok ht
  have hlength : (s.huffSymbols s.argOffset m).length = m := s.huffSymbols_length _ _
  have hbuilt : t.Built false := buildHuff_built ht (hlength.trans hm) (hm ▸ hmax) nofun
  refine ⟨t, ?_, hvalid, hbits, hsyms ▸ hlength, fun j hj => ?_, hbuilt.recurrence hvalid⟩
  · rw [exec_loadHt_eq hs htc hth hread hm.symm hlen hmax ht fun h0 => State.forall_huffSymbols.mpr (hdc h0),
      s.setHt_setWidth htc hth]
    split <;> rfl
  · rw [HuffTable.symAt, hsyms]
    exact s.huffSymbols_getD s.argOffset hj

/-- Settles O29: each clause passes the checks before its own and fails that one. -/
theorem loadHtChecksInOrder : Obligations.LoadHtChecksInOrder := by
  unfold Obligations.LoadHtChecksInOrder
  intro tc th s
  dsimp only
  rw [← symEnd_eq_sum]
  refine ⟨commandFront (.loadHt tc th) s, fun hs => ⟨fun htc => ?_, fun htc hth => ?_, fun htc hth hlen => ?_,
    fun htc hth hlen hmax => ?_, fun htc hth hlen hmax hlen' => ?_, fun htc hth hlen hmax hfit => ?_,
    fun htc hth hlen hmax hfit hsym => ?_⟩⟩
  · rw [exec_loadHt_of_allowed hs, complete_require_decodeError (Nat.not_le.mpr htc)]
  · rw [exec_loadHt_of_allowed hs, complete_require htc, complete_require_decodeError (Nat.not_le.mpr hth)]
  · rw [exec_loadHt_of_allowed hs, complete_require htc, complete_require hth,
      complete_require_decodeError (not_not.mpr hlen)]
  · rw [exec_loadHt_of_allowed hs, complete_require htc, complete_require hth,
      complete_require (Nat.not_lt.mpr hlen), complete_require_decodeError (Nat.not_le.mpr hmax)]
  · rw [exec_loadHt_of_allowed hs, complete_require htc, complete_require hth,
      complete_require (Nat.not_lt.mpr hlen), complete_require hmax, complete_require_decodeError (not_not.mpr hlen')]
  · rw [exec_loadHt_of_read hs htc hth hlen hmax, buildHuff_of_not_codesFit hfit, except_error_bind, complete_decodeError]
  · obtain ⟨t, ht⟩ := exists_buildHuff hfit (s.huffSymbols s.arg.toNat (symEnd (s.huffCounts s.arg.toNat) 16))
    obtain ⟨j, hj, hbig⟩ := hsym
    rw [exec_loadHt_of_read hs (by omega) hth hlen hmax, ht, except_ok_bind]
    exact complete_require_decodeError fun hall =>
      Nat.not_le.mpr hbig (State.forall_huffSymbols.mp (hall htc) j hj)

end Sys2Proof.Machine

/-! ## O34 and O35: START_SCAN -/

namespace Sys2Proof.Machine

/-- START_SCAN in STARTED with no scan goes on to its own five checks (R178). -/
theorem exec_startScan_of_noScan {ns : BitVec 8} {s : State} (hs : s.sess = .started) (ha : s.scanact = false) :
    exec (.startScan ns) s = complete 0x0E s (do
      require (ns.toNat ≠ 0 ∧ ns.toNat ≤ 4 ∧ ns.toNat ≤ s.nf.toNat) (.decodeError .badNs)
      require (∀ i ∈ List.range ns.toNat, (s.slot i).sset = true) (.precond .slotUnset)
      require (∀ i ∈ List.range ns.toNat, 0 < i → s.slotComp (i - 1) < s.slotComp i) (.decodeError .scanOrder)
      require (1 < ns.toNat → s.mcuSize ns.toNat ≤ 10) (.decodeError .mcuTooBig)
      require (∀ i ∈ List.range ns.toNat, (s.ht 0 (s.slot i).td).hvalid = true ∧ (s.ht 1 (s.slot i).ta).hvalid = true)
        (.decodeError .htUndefined)
      .ok { s with
            ns := BitVec.ofNat 3 ns.toNat, seg := s.arg, bitpos := 0, pred := .all 0, rstnext := 0, mcucnt := 0
            marker := 0, mcutot := BitVec.ofNat 32 (s.scanMcus ns.toNat), scanact := true }) :=
  complete_stateCheck (stateCause_startedNoScan.mpr ⟨hs, ha⟩)

/-- A sequence that rises from each index to the next, said from the earlier index and from the later one. -/
theorem rising_iff {f : Nat → Nat} {n : Nat} :
    (∀ i < n, 0 < i → f (i - 1) < f i) ↔ ∀ i, i + 1 < n → f i < f (i + 1) := by
  refine ⟨fun h i hi => h (i + 1) hi (Nat.succ_pos i), fun h i hi hpos => ?_⟩
  obtain ⟨k, rfl⟩ := Nat.exists_eq_add_of_le' hpos
  exact h k hi

/-- Settles O34, by the command's one way to complete. -/
theorem startScanBeginsScan : Obligations.StartScanBeginsScan := by
  unfold Obligations.StartScanBeginsScan
  intro ns s hs ha hpos hmax hnf hslots hord hsize
  obtain ⟨hset, hht⟩ := forall₂_and.mp hslots
  refine ⟨s.scanMcus ns.toNat,
    (Completes.startScan hs ha ⟨by omega, hmax, hnf⟩ hset (rising_iff.mpr hord) hsize hht).exec_eq,
    fun hmany => if_pos hmany, fun hone => if_neg (by omega)⟩

/-- Settles O35: each check is the negation of the premise that its failure has in the statement, and each clause passes the
checks before its own and fails that one. -/
theorem startScanChecksInOrder : Obligations.StartScanChecksInOrder := by
  unfold Obligations.StartScanChecksInOrder
  intro ns s
  dsimp only
  refine ⟨commandFront (.startScan ns) s, fun hs ha => ?_⟩
  have hns : (ns.toNat ≠ 0 ∧ ns.toNat ≤ 4 ∧ ns.toNat ≤ s.nf.toNat) ↔
      ¬ (ns.toNat = 0 ∨ 4 < ns.toNat ∨ s.nf.toNat < ns.toNat) := by
    omega
  have hset : (∀ i ∈ List.range ns.toNat, (s.slot i).sset = true) ↔ ¬ ∃ i < ns.toNat, (s.slot i).sset = false := by
    simp
  have hord : (∀ i ∈ List.range ns.toNat, 0 < i → s.slotComp (i - 1) < s.slotComp i) ↔
      ¬ ∃ i, i + 1 < ns.toNat ∧ s.slotComp (i + 1) ≤ s.slotComp i := by
    simp [rising_iff]
  have hsize : (1 < ns.toNat → s.mcuSize ns.toNat ≤ 10) ↔ ¬ (1 < ns.toNat ∧ 10 < s.mcuSize ns.toNat) := by
    omega
  have hht : (∀ i ∈ List.range ns.toNat, (s.ht 0 (s.slot i).td).hvalid = true ∧ (s.ht 1 (s.slot i).ta).hvalid = true) ↔
      ¬ ∃ i < ns.toNat, (s.ht 0 (s.slot i).td).hvalid = false ∨ (s.ht 1 (s.slot i).ta).hvalid = false := by
    simp
  rw [exec_startScan_of_noScan hs ha]
  refine ⟨fun hbad => ?_, fun hbad hunset => ?_, fun hbad hunset hdis => ?_, fun hbad hunset hdis hbig => ?_,
    fun hbad hunset hdis hbig hno => ?_⟩
  · rw [complete_require_decodeError fun hp => hns.mp hp hbad]
  · rw [complete_require (hns.mpr hbad), complete_require_precond fun hp => hset.mp hp hunset]
  · rw [complete_require (hns.mpr hbad), complete_require (hset.mpr hunset),
      complete_require_decodeError fun hp => hord.mp hp hdis]
  · rw [complete_require (hns.mpr hbad), complete_require (hset.mpr hunset), complete_require (hord.mpr hdis),
      complete_require_decodeError fun hp => hsize.mp hp hbig]
  · rw [complete_require (hns.mpr hbad), complete_require (hset.mpr hunset), complete_require (hord.mpr hdis),
      complete_require (hsize.mpr hbig), complete_require_decodeError fun hp => hht.mp hp hno]

end Sys2Proof.Machine

/-! ## O30 to O33: SET_FRAME, SET_COMP, SET_DRI, SET_SCAN_COMP -/

namespace Sys2Proof.Machine

/-! The halves of ARG (R113). -/

theorem State.argLow_toNat (s : State) : s.argLow.toNat = s.arg.toNat % 2 ^ 16 := by
  simp [State.argLow]

theorem State.argHigh_toNat (s : State) : s.argHigh.toNat = s.arg.toNat / 2 ^ 16 := by
  have := s.arg.isLt
  rw [State.argHigh, BitVec.extractLsb'_toNat, Nat.shiftRight_eq_div_pow]
  omega

theorem State.ofNat_argLow (s : State) : BitVec.ofNat 16 (s.arg.toNat % 2 ^ 16) = s.argLow := by
  rw [← s.argLow_toNat, BitVec.ofNat_toNat, BitVec.setWidth_eq]

theorem State.ofNat_argHigh (s : State) : BitVec.ofNat 16 (s.arg.toNat / 2 ^ 16) = s.argHigh := by
  rw [← s.argHigh_toNat, BitVec.ofNat_toNat, BitVec.setWidth_eq]

/-- SET_FRAME in EMPTY goes on to its own five checks (R172). -/
theorem exec_setFrame_of_empty {p nf : BitVec 8} {s : State} (hs : s.sess = .empty) :
    exec (.setFrame p nf) s = complete 0x0A s (do
      require (p.toNat = 8) (.decodeError .precision)
      require (nf.toNat ≠ 0) (.decodeError .badNf)
      require (nf.toNat = 1 ∨ nf.toNat = 3) (.decodeError .components)
      require (s.argLow.toNat ≠ 0) (.decodeError .badDimension)
      require (s.argHigh.toNat ≠ 0) (.decodeError .dnlHeight)
      .ok { s with
            prec := p, nf := nf.setWidth 2, fx := s.argLow, fy := s.argHigh
            comp := ⟨{ s.comp.c0 with cset := false }, { s.comp.c1 with cset := false }, { s.comp.c2 with cset := false }⟩
            frameset := true }) :=
  complete_stateCheck (stateCause_emptyOnly.mpr hs)

/-- Settles O30: its five checks fail one at a time. -/
theorem setFrameRecordsFrame : Obligations.SetFrameRecordsFrame := by
  unfold Obligations.SetFrameRecordsFrame
  intro p nf s
  dsimp only
  rw [s.ofNat_argLow, s.ofNat_argHigh, ← s.argLow_toNat, ← s.argHigh_toNat, BitVec.ofNat_toNat]
  refine ⟨commandFront (.setFrame p nf) s, fun hs => ⟨fun hp => ?_, fun hp h0 => ?_, fun hp h0 hnf => ?_,
    fun hp hnf hx => ?_, fun hp hnf hx hy => ?_, fun hp hnf hx hy => (Completes.setFrame hs hp hnf hx hy).exec_eq⟩⟩
  · rw [exec_setFrame_of_empty hs, complete_require_decodeError hp]
  · rw [exec_setFrame_of_empty hs, complete_require hp, complete_require_decodeError (not_not.mpr h0)]
  · rw [exec_setFrame_of_empty hs, complete_require hp, complete_require h0, complete_require_decodeError hnf]
  · rw [exec_setFrame_of_empty hs, complete_require hp, complete_require (by omega), complete_require hnf,
      complete_require_decodeError (not_not.mpr hx)]
  · rw [exec_setFrame_of_empty hs, complete_require hp, complete_require (by omega), complete_require hnf,
      complete_require hx, complete_require_decodeError (not_not.mpr hy)]

/-- SET_COMP in EMPTY with its field in range goes on to its own four checks (R173). -/
theorem exec_setComp_of_empty {c : BitVec 2} {h v : BitVec 4} {tq : BitVec 8} {s : State} (hc : c.toNat ≤ 2)
    (hs : s.sess = .empty) :
    exec (.setComp c h v tq) s = complete 0x0B s (do
      require (s.frameset = true) (.precond .noFrame)
      require (c.toNat < s.nf.toNat) (.precond .badComp)
      require (1 ≤ h.toNat ∧ h.toNat ≤ 4 ∧ 1 ≤ v.toNat ∧ v.toNat ≤ 4) (.decodeError .badSampling)
      require (tq.toNat ≤ 3) (.decodeError .badTableId)
      .ok { s with comp := s.comp.set c.toNat ⟨true, h, v, tq.setWidth 2⟩ }) :=
  (complete_require hc).trans (complete_stateCheck (stateCause_emptyOnly.mpr hs))

/-- Settles O31: its four checks fail one at a time. -/
theorem setCompRecordsComponent : Obligations.SetCompRecordsComponent := by
  unfold Obligations.SetCompRecordsComponent
  intro c h v tq s
  dsimp only
  rw [BitVec.ofNat_toNat]
  refine ⟨commandFront (.setComp c h v tq) s, fun hc hs => ⟨fun hf => ?_, fun hf hnf => ?_, fun hf hnf hhv => ?_,
    fun hf hnf hhv htq => ?_, fun hf hnf hhv htq => (Completes.setComp hs hf hc hnf hhv htq).exec_eq⟩⟩
  · rw [exec_setComp_of_empty hc hs, complete_require_precond (Bool.eq_false_iff.mp hf)]
  · rw [exec_setComp_of_empty hc hs, complete_require hf, complete_require_precond (Nat.not_lt.mpr hnf)]
  · rw [exec_setComp_of_empty hc hs, complete_require hf, complete_require hnf, complete_require_decodeError hhv]
  · rw [exec_setComp_of_empty hc hs, complete_require hf, complete_require hnf, complete_require hhv,
      complete_require_decodeError (Nat.not_le.mpr htq)]

/-- Settles O32, by `commandFront` and the command's one way to complete. -/
theorem setDriTakesInterval : Obligations.SetDriTakesInterval := by
  unfold Obligations.SetDriTakesInterval
  refine fun s => ⟨commandFront .setDri s, fun hs => ?_⟩
  rw [s.ofNat_argLow]
  exact (Completes.setDri hs).exec_eq

/-- SET_SCAN_COMP in STARTED with no scan and its field in range goes on to its own two checks (R175). -/
theorem exec_setScanComp_of_noScan {k c : BitVec 2} {td ta : BitVec 4} {s : State} (hc : c.toNat ≤ 2)
    (hs : s.sess = .started) (ha : s.scanact = false) :
    exec (.setScanComp k c td ta) s = complete 0x0D s (do
      require (c.toNat < s.nf.toNat) (.precond .badComp)
      require (td.toNat ≤ 3 ∧ ta.toNat ≤ 3) (.decodeError .badTableId)
      .ok { s with sc := s.sc.set k.toNat ⟨true, c, td.setWidth 2, ta.setWidth 2⟩ }) :=
  (complete_require hc).trans (complete_stateCheck (stateCause_startedNoScan.mpr ⟨hs, ha⟩))

/-- Settles O33: its two checks fail one at a time. -/
theorem setScanCompRecordsSlot : Obligations.SetScanCompRecordsSlot := by
  unfold Obligations.SetScanCompRecordsSlot
  intro k c td ta s
  rw [BitVec.ofNat_toNat, BitVec.ofNat_toNat]
  refine ⟨commandFront (.setScanComp k c td ta) s, fun hc hs ha => ⟨fun hnf => ?_, fun hnf htab => ?_,
    fun hnf htd hta => (Completes.setScanComp hs ha hc hnf ⟨htd, hta⟩).exec_eq⟩⟩
  · rw [exec_setScanComp_of_noScan hc hs ha, complete_require_precond (Nat.not_lt.mpr hnf)]
  · rw [exec_setScanComp_of_noScan hc hs ha, complete_require hnf, complete_require_decodeError (by omega)]

end Sys2Proof.Machine

/-! # The family 43_entropy.md: the bit stream, symbols, blocks and MCUs -/

/-! ## O36: the segment -/

namespace Sys2Proof.Machine

/-- IN, read by rd, holds the bytes from position p on. -/
def HoldsAt (rd : Nat → Byte) (p : Nat) (bytes : List Byte) : Prop := ∀ i (h : i < bytes.length), rd (p + i) = bytes[i]

section
variable {rd : Nat → Byte} {p : Nat}

theorem HoldsAt.append_left {l r : List Byte} (h : HoldsAt rd p (l ++ r)) : HoldsAt rd p l := fun i hi => by
  rw [h i (by simp; omega), List.getElem_append_left hi]

theorem HoldsAt.append_right {l r : List Byte} (h : HoldsAt rd p (l ++ r)) : HoldsAt rd (p + l.length) r := fun i hi => by
  rw [Nat.add_assoc, h (l.length + i) (by simpa using hi), List.getElem_append_right (by omega)]
  simp

theorem HoldsAt.head {b : Byte} {l : List Byte} (h : HoldsAt rd p (b :: l)) : rd p = b := h 0 (Nat.succ_pos _)

theorem HoldsAt.tail {b : Byte} {l : List Byte} (h : HoldsAt rd p (b :: l)) : HoldsAt rd (p + 1) l :=
  h.append_right (l := [b])

theorem stuff_cons_ff (data : List Byte) : stuff (0xFF :: data) = 0xFF :: 0x00 :: stuff data := rfl

theorem stuff_cons_of_ne {b : Byte} (hb : b ≠ 0xFF) (data : List Byte) : stuff (b :: data) = b :: stuff data := by
  show (if b = 0xFF then _ else [b]) ++ stuff data = _
  rw [if_neg hb]
  rfl

variable {len : Nat}

/-- Stuffed data comes out unstuffed, in front of what the scan finds after it (R210). -/
theorem scanSegment_stuff {data : List Byte} (h : HoldsAt rd p (stuff data)) (hlen : p + (stuff data).length ≤ len)
    (fuel : Nat) : scanSegment rd len (fuel + data.length) p =
      ⟨data ++ (scanSegment rd len fuel (p + (stuff data).length)).data,
        (scanSegment rd len fuel (p + (stuff data).length)).stop⟩ := by
  induction data generalizing p with
  | nil => rfl
  | cons b data ih =>
    by_cases hb : b = 0xFF
    · subst hb
      rw [stuff_cons_ff] at h hlen ⊢
      simp only [List.length_cons] at hlen ⊢
      have hrest := ih h.tail.tail (by omega)
      rw [← Nat.add_assoc, scanSegment, if_neg (by omega), if_neg (not_not.mpr h.head), if_neg (by omega),
        if_pos h.tail.head, hrest, show p + ((stuff data).length + 1 + 1) = p + 1 + 1 + (stuff data).length by omega]
      rfl
    · rw [stuff_cons_of_ne hb] at h hlen ⊢
      simp only [List.length_cons] at hlen ⊢
      have hrest := ih h.tail (by omega)
      rw [← Nat.add_assoc, scanSegment, if_neg (by omega), if_pos (h.head ▸ hb), h.head, hrest,
        show p + ((stuff data).length + 1) = p + 1 + (stuff data).length by omega]
      rfl

/-- The skip of R210 passes the fill bytes and goes on behind them. -/
theorem skipFill_replicate {n : Nat} (h : HoldsAt rd p (List.replicate n 0xFF)) (hlen : p + n ≤ len) (fuel : Nat) :
    skipFill rd len (fuel + n) p = skipFill rd len fuel (p + n) := by
  induction n generalizing p with
  | zero => rfl
  | succ n ih =>
    rw [← Nat.add_assoc, skipFill, if_pos ⟨by omega, h.head⟩, ih h.tail (by omega), show p + 1 + n = p + (n + 1) by omega]

theorem skipFill_stop {q : Nat} (h : len ≤ q ∨ rd q ≠ 0xFF) (fuel : Nat) : skipFill rd len fuel q = q := by
  cases fuel with
  | zero => rfl
  | succ fuel => exact if_neg fun ⟨hlt, hff⟩ => h.elim (Nat.not_le.mpr hlt) (absurd hff)

/-- Fill bytes that stand before q are skipped, and the skip stops at q (R210). -/
theorem skipFill_eq {n : Nat} (h : HoldsAt rd p (List.replicate n 0xFF)) (hlen : p + n ≤ len)
    (hstop : len ≤ p + n ∨ rd (p + n) ≠ 0xFF) : skipFill rd len len p = p + n := by
  obtain ⟨fuel, hfuel⟩ := Nat.exists_eq_add_of_le' (show n ≤ len by omega)
  calc skipFill rd len len p = skipFill rd len (fuel + n) p := by rw [← hfuel]
    _ = skipFill rd len fuel (p + n) := skipFill_replicate h hlen fuel
    _ = p + n := skipFill_stop hstop fuel

/-- One or more fill bytes and a marker code end a segment at that marker (R210). -/
theorem scanSegment_marker {fill : Nat} {code : Byte} (h : HoldsAt rd p (List.replicate (fill + 1) 0xFF ++ [code]))
    (h0 : code ≠ 0x00) (hff : code ≠ 0xFF) (hlen : p + (fill + 2) ≤ len) (fuel : Nat) :
    scanSegment rd len (fuel + 1) p = ⟨[], .marker code p (p + (fill + 2))⟩ := by
  have hcode : rd (p + 1 + fill) = code := by
    have := h.append_right.head
    rwa [List.length_replicate, show p + (fill + 1) = p + 1 + fill by omega] at this
  have hfill : HoldsAt rd (p + 1) (List.replicate fill 0xFF) := h.append_left.tail
  have hnext : rd (p + 1) ≠ 0x00 := by
    cases fill with
    | zero => rw [← Nat.add_zero (p + 1), hcode]; exact h0
    | succ n => rw [hfill.head]; decide
  have hskip := skipFill_eq (len := len) hfill (by omega) (.inr (hcode ▸ hff))
  rw [scanSegment, if_neg (by omega), if_neg (not_not.mpr h.append_left.head), if_neg (by omega), if_neg hnext]
  simp only [hskip, hcode]
  rw [if_neg (by omega), show p + 1 + fill + 1 = p + (fill + 2) by omega]

/-- Fill bytes that IN ends with end a segment at END (R210). -/
theorem scanSegment_end {fill : Nat} (h : HoldsAt rd p (List.replicate fill 0xFF)) (hlen : p + fill = len) (fuel : Nat) :
    scanSegment rd len fuel p = ⟨[], .endOfInput⟩ := by
  cases fuel with
  | zero => rfl
  | succ fuel =>
    rw [scanSegment]
    match fill with
    | 0 => rw [if_pos (by omega)]
    | 1 => rw [if_neg (by omega), if_neg (not_not.mpr h.head), if_pos (by omega)]
    | n + 2 =>
      have hfill : HoldsAt rd (p + 1) (List.replicate (n + 1) 0xFF) := h.tail
      have hskip := skipFill_eq (len := len) hfill (by omega) (.inl (by omega))
      have hnext : rd (p + 1) ≠ 0x00 := by rw [hfill.head]; decide
      rw [if_neg (by omega), if_neg (not_not.mpr h.head), if_neg (by omega), if_neg hnext]
      simp only [hskip]
      rw [if_pos (by omega)]

end

theorem length_le_stuff (data : List Byte) : data.length ≤ (stuff data).length := by
  induction data with
  | nil => exact Nat.le_refl 0
  | cons b data ih =>
    by_cases hb : b = 0xFF
    · rw [hb, stuff_cons_ff]; simp only [List.length_cons]; omega
    · rw [stuff_cons_of_ne hb]; simp only [List.length_cons]; omega

/-- The segment at stuffed data, by what the scan finds after it when there is room for it. -/
theorem State.segment_of_stuff {s : State} {data : List Byte} {stop : Stop} {rest : Nat}
    (h : HoldsAt s.inByte s.seg.toNat (stuff data)) (hlen : s.seg.toNat + (stuff data).length + rest ≤ s.inLen.toNat)
    (hrest : ∀ fuel, rest ≤ fuel →
      scanSegment s.inByte s.inLen.toNat fuel (s.seg.toNat + (stuff data).length) = ⟨[], stop⟩) :
    s.segment = ⟨data, stop⟩ := by
  have := length_le_stuff data
  obtain ⟨fuel, hfuel⟩ := Nat.exists_eq_add_of_le' (show data.length ≤ s.inLen.toNat by omega)
  have hscan := scanSegment_stuff h (len := s.inLen.toNat) (by omega) fuel
  rw [← hfuel, hrest fuel (by omega), List.append_nil] at hscan
  exact hscan

/-- Settles O36: the data by `State.segment_of_stuff`, and then a marker or the end of IN. -/
theorem segmentUnstuffs : Obligations.SegmentUnstuffs := by
  unfold Obligations.SegmentUnstuffs
  refine fun s data fill => ⟨fun code hfill h0 hff => ?_, fun hlen hbytes => ?_⟩
  · dsimp only
    intro hlen hbytes
    obtain ⟨n, rfl⟩ := Nat.exists_eq_add_of_le' hfill
    have hdata : HoldsAt s.inByte s.seg.toNat (stuff data ++ (List.replicate (n + 1) 0xFF ++ [code])) := by
      rwa [← List.append_assoc]
    simp only [List.length_append, List.length_replicate, List.length_singleton] at hlen ⊢
    refine State.segment_of_stuff (rest := 1) hdata.append_left (by omega) fun fuel hfuel => ?_
    obtain ⟨k, rfl⟩ := Nat.exists_eq_add_of_le' hfuel
    rw [scanSegment_marker hdata.append_right h0 hff (by omega),
      show s.seg.toNat + ((stuff data).length + (n + 1) + 1) = s.seg.toNat + (stuff data).length + (n + 2) by omega]
  · have hdata : HoldsAt s.inByte s.seg.toNat (stuff data ++ List.replicate fill 0xFF) := hbytes
    simp only [List.length_append, List.length_replicate] at hlen
    exact State.segment_of_stuff (rest := 0) hdata.append_left (by omega) fun fuel _ =>
      scanSegment_end hdata.append_right (by omega) fuel

end Sys2Proof.Machine

/-! ## O37 to O39: DEC_HUFF -/

namespace Sys2Proof.Machine

/-! The bits of a symbol (R215, R213). -/

/-- A field is its first m bits above its other n. -/
theorem Segment.fieldValue_add (g : Segment) (pos m n : Nat) :
    g.fieldValue pos (m + n) = g.fieldValue pos m * 2 ^ n + g.fieldValue (pos + m) n := by
  induction m generalizing pos with
  | zero => simp
  | succ m ih =>
    rw [Nat.succ_add_eq_add_succ, Nat.add_succ, Segment.fieldValue_succ, ih, Segment.fieldValue_succ g pos m,
      show pos + 1 + m = pos + (m + 1) by omega, Nat.pow_add]
    ring

theorem Segment.fieldValue_one (g : Segment) (pos : Nat) : g.fieldValue pos 1 = g.peekBit pos := by
  rw [Segment.fieldValue_succ]
  simp

theorem Segment.fieldValue_lt (g : Segment) (pos n : Nat) : g.fieldValue pos n < 2 ^ n := by
  induction n generalizing pos with
  | zero => simp
  | succ n ih =>
    have hbit : g.peekBit pos < 2 := Nat.mod_lt _ (by decide)
    have hmul : g.peekBit pos * 2 ^ n ≤ 1 * 2 ^ n := Nat.mul_le_mul_right _ (by omega)
    have := ih (pos + 1)
    rw [Segment.fieldValue_succ, Nat.pow_succ]
    omega

variable {g : Segment} {t : HuffTable} {pos : Nat}

theorem Segment.NoCode.mono {m n : Nat} (h : g.NoCode t pos n) (hm : m ≤ n) : g.NoCode t pos m :=
  fun l hl hlm => h l hl (Nat.le_trans hlm hm)

/-- Where no code of a length up to n matches, the search of `DecodeSym` goes on behind those n bits (R215). -/
theorem Segment.decodeSym_of_noCode {n : Nat} (h : g.NoCode t pos n) (hn : n ≤ 16) (hb : n = 0 ∨ pos + n ≤ g.bits) :
    g.decodeSym t pos = g.symSearch t (16 - n) (n + 1) (pos + n) (g.fieldValue pos n) := by
  induction n with
  | zero => rfl
  | succ n ih =>
    have hlast : g.fieldValue pos (n + 1) = 2 * g.fieldValue pos n + g.peekBit (pos + n) := by
      rw [Segment.fieldValue_add, Segment.fieldValue_one, Nat.pow_one, Nat.mul_comm]
    have hmiss := h (n + 1) (by omega) le_rfl
    rw [hlast] at hmiss ⊢
    rw [ih (h.mono (Nat.le_succ n)) (by omega) (by omega), show 16 - n = 16 - (n + 1) + 1 by omega, Segment.symSearch,
      (Segment.need_eq_ok (u := ())).mpr (by omega), except_ok_bind]
    exact if_neg hmiss

/-- Where the first code that matches is the j-th of length l, `DecodeSym` gives its symbol (R215). -/
theorem Segment.decodeSym_of_code {l j : Nat} (h : g.NoCode t pos (l - 1)) (hl : 1 ≤ l) (hl16 : l ≤ 16) (hj : j < t.bitsAt l)
    (hb : pos + l ≤ g.bits) (hv : g.fieldValue pos l = t.firstAt l + j) :
    g.decodeSym t pos = .ok (t.symAt (t.offAt l + j), pos + l) := by
  obtain ⟨n, rfl⟩ := Nat.exists_eq_add_of_le' hl
  have hlast : 2 * g.fieldValue pos n + g.peekBit (pos + n) = t.firstAt (n + 1) + j := by
    rw [← hv, Segment.fieldValue_add, Segment.fieldValue_one, Nat.pow_one, Nat.mul_comm]
  rw [Segment.decodeSym_of_noCode h (by omega) (by simp only [Nat.add_sub_cancel]; omega), Nat.add_sub_cancel,
    show 16 - n = 16 - (n + 1) + 1 by omega, Segment.symSearch, (Segment.need_eq_ok (u := ())).mpr (by omega),
    except_ok_bind]
  simp only [hlast]
  rw [if_pos (by omega), show t.offAt (n + 1) + (t.firstAt (n + 1) + j) - t.firstAt (n + 1) = t.offAt (n + 1) + j by omega]
  rfl

/-- Bits that are no code fault `DecodeSym` (R215, R212). -/
theorem Segment.decodeSym_of_symFaults {c : ErrCause} (h : g.SymFaults t pos c) :
    g.decodeSym t pos = .error (.decodeError c) := by
  rcases h with ⟨rfl, hb, hno⟩ | ⟨n, hn, rfl, hend, hb, hno⟩
  · rw [Segment.decodeSym_of_noCode hno le_rfl (.inr hb)]
    rfl
  · rw [Segment.decodeSym_of_noCode hno (by omega) hb, show 16 - n = 16 - (n + 1) + 1 by omega, Segment.symSearch,
      Segment.need_exhausted hend]
    rfl

/-! Canonical codes (R176). -/

/-- The codes of length l, continued by any n bits, stay below the end of the codes of length l + n. -/
theorem codeEnd_mul_le (bits : Vector Byte 16) (l n : Nat) : codeEnd bits l * 2 ^ n ≤ codeEnd bits (l + n) := by
  induction n with
  | zero => simp
  | succ n ih =>
    calc codeEnd bits l * 2 ^ (n + 1) = 2 * (codeEnd bits l * 2 ^ n) := by ring
      _ ≤ 2 * codeEnd bits (l + n) := Nat.mul_le_mul_left 2 ih
      _ ≤ codeEnd bits (l + (n + 1)) := Nat.le_add_right _ _

theorem codeEnd_eq (bits : Vector Byte 16) {l : Nat} (hl : 1 ≤ l) : codeEnd bits l = firstCode bits l + countAt bits l := by
  obtain ⟨k, rfl⟩ := Nat.exists_eq_add_of_le' hl
  rfl

/-- Bits of which the first l are below the end of the codes of length l are below the first code of every greater length. -/
theorem Segment.fieldValue_lt_firstCode {bits : Vector Byte 16} {l n : Nat}
    (h : g.fieldValue pos l < codeEnd bits l) : g.fieldValue pos (l + (n + 1)) < firstCode bits (l + (n + 1)) := by
  have hlow := g.fieldValue_lt (pos + l) (n + 1)
  calc g.fieldValue pos (l + (n + 1)) = g.fieldValue pos l * 2 ^ (n + 1) + g.fieldValue (pos + l) (n + 1) :=
        g.fieldValue_add pos l (n + 1)
    _ < (g.fieldValue pos l + 1) * 2 ^ (n + 1) := by rw [Nat.succ_mul]; omega
    _ ≤ codeEnd bits l * 2 ^ (n + 1) := Nat.mul_le_mul_right _ h
    _ = 2 * (codeEnd bits l * 2 ^ n) := by ring
    _ ≤ firstCode bits (l + (n + 1)) := Nat.mul_le_mul_left 2 (codeEnd_mul_le bits l n)

/-- No code of a built table is the beginning of a longer one (R176). -/
theorem HuffTable.Built.noCode_shorter {dc : Bool} (h : t.Built dc) (hv : t.hvalid = true) {l : Nat} (hl : 1 ≤ l)
    (hl16 : l ≤ 16) (hfirst : t.firstAt l ≤ g.fieldValue pos l) : g.NoCode t pos (l - 1) := by
  obtain ⟨-, hcodes, -⟩ := h hv
  rintro m hm hml ⟨-, -, hlt⟩
  obtain ⟨n, rfl⟩ := Nat.exists_eq_add_of_le (show m + 1 ≤ l by omega)
  obtain ⟨hm1, -⟩ := hcodes m (by omega) (by omega)
  obtain ⟨hl1, -⟩ := hcodes (m + 1 + n) (by omega) (by omega)
  rw [hm1, HuffTable.bitsAt, ← codeEnd_eq t.bits hm] at hlt
  have := Segment.fieldValue_lt_firstCode (n := n) hlt
  rw [hl1, show m + 1 + n = m + (n + 1) by omega] at hfirst
  omega

/-- Settles O37: no shorter code matches, by `HuffTable.Built.noCode_shorter`. -/
theorem canonicalCodeDecodes : Obligations.CanonicalCodeDecodes := by
  unfold Obligations.CanonicalCodeDecodes
  intro g t dc pos l j hv hbuilt hl hl16 hj hb hval
  exact Segment.decodeSym_of_code (hbuilt.noCode_shorter hv hl hl16 (by omega)) hl hl16 hj hb hval

/-! The command (R230). -/

/-- A command of the stream with a scan active passes its state check (R320). -/
theorem complete_startedScan {op : BitVec 6} {s : State} {f : Unit → Except Raise State} (hs : s.sess = .started)
    (ha : s.scanact = true) : complete op s (stateCheck .startedScan s >>= f) = complete op s (f ()) :=
  complete_stateCheck (stateCause_startedScan.mpr ⟨hs, ha⟩)

theorem complete_bind_decodeError {op : BitVec 6} {s : State} {α : Type} {x : Except Raise α} {c : ErrCause}
    {f : α → Except Raise State} (h : x = .error (.decodeError c)) : complete op s (x >>= f) = .next (s.decodeError op c) := by
  rw [h, except_error_bind, complete_decodeError]

/-- The cursor moved on by n bits. -/
theorem State.ofNat_bitpos_add (s : State) (n : Nat) : BitVec.ofNat 35 (s.bitpos.toNat + n) = s.bitpos + BitVec.ofNat 35 n := by
  rw [BitVec.ofNat_add, BitVec.ofNat_toNat, BitVec.setWidth_eq]

theorem exec_decHuff_of_symFaults {tc : BitVec 1} {th : BitVec 2} {s : State} {c : ErrCause} (hs : s.sess = .started)
    (ha : s.scanact = true) (hv : (s.ht tc th).hvalid = true) (h : s.segment.SymFaults (s.ht tc th) s.bitpos.toNat c) :
    exec (.decHuff tc th) s = .next (s.decodeError 0x10 c) :=
  (complete_startedScan hs ha).trans ((complete_require hv).trans
    (complete_bind_decodeError (Segment.decodeSym_of_symFaults h)))

/-- Settles O38: a code of a built table decodes by `canonicalCodeDecodes`. -/
theorem decHuffDecodesSymbol : Obligations.DecHuffDecodesSymbol := by
  unfold Obligations.DecHuffDecodesSymbol
  refine fun tc th s => ⟨commandFront (.decHuff tc th) s, fun hs ha hv => ?_,
    fun dc l j hs ha hv hbuilt hl hl16 hj hb hval => ?_⟩
  · exact (complete_startedScan hs ha).trans (complete_require_precond (Bool.eq_false_iff.mp hv))
  · rw [← s.ofNat_bitpos_add, BitVec.ofNat_toNat]
    exact (Completes.decHuff hs ha hv (canonicalCodeDecodes _ _ dc _ l j hv hbuilt hl hl16 hj hb hval)).exec_eq

/-- Settles O39, by the two ways bits are no code. -/
theorem decHuffFaults : Obligations.DecHuffFaults := by
  unfold Obligations.DecHuffFaults
  refine fun tc th s n hs ha hv hno => ⟨fun hn hb => ?_, fun hn hend hb => ?_⟩
  · subst hn
    exact exec_decHuff_of_symFaults hs ha hv (.inl ⟨rfl, hb, hno⟩)
  · exact exec_decHuff_of_symFaults hs ha hv (.inr ⟨n, hn, rfl, hend, .inr hb, hno⟩)

end Sys2Proof.Machine

/-! ## O40 and O41: GET_BITS and GET_EXT -/

namespace Sys2Proof.Machine

variable {g : Segment} {n pos : Nat}

/-- A field that the segment has, or one of no bits, is read with its value (R213). -/
theorem Segment.nextBits_value (h : n = 0 ∨ pos + n ≤ g.bits) : g.nextBits n pos = .ok (g.fieldValue pos n) := by
  rcases h with rfl | h
  · rfl
  · rw [Segment.nextBits, Segment.takeBits_value 0 h, Nat.zero_mul, Nat.zero_add]

theorem Segment.recvExt_value (h : n = 0 ∨ pos + n ≤ g.bits) :
    g.recvExt n pos = .ok (extend (g.fieldValue pos n) n) := by
  rw [Segment.recvExt, Segment.nextBits_value h, except_ok_bind]

theorem Segment.recvExt_exhausted (hn : 0 < n) (h : g.bits < pos + n) :
    g.recvExt n pos = .error (.decodeError g.exhausted) := by
  rw [Segment.recvExt, Segment.nextBits, Segment.takeBits_exhausted 0 hn h, except_error_bind]

/-- Settles O40: the field is read with its value or is not there. -/
theorem getBitsTakesField : Obligations.GetBitsTakesField := by
  unfold Obligations.GetBitsTakesField
  refine fun n s => ⟨commandFront (.getBits n) s, fun hn hs ha => ⟨fun hb => ?_, fun hpos hb => ?_⟩⟩
  · rw [← s.ofNat_bitpos_add]
    exact (Completes.getBits hn hs ha (Segment.nextBits_value hb)).exec_eq
  · exact (complete_require hn).trans ((complete_startedScan hs ha).trans
      (complete_bind_decodeError (Segment.takeBits_exhausted 0 hpos hb)))

/-- Settles O41: the field is read and extended or is not there. -/
theorem getExtExtendsField : Obligations.GetExtExtendsField := by
  unfold Obligations.GetExtExtendsField
  refine fun n s => ⟨commandFront (.getExt n) s, fun hn hs ha => ⟨fun hb => ?_, fun hpos hb => ?_⟩⟩
  · rw [← s.ofNat_bitpos_add]
    exact (Completes.getExt hn hs ha (Segment.recvExt_value hb)).exec_eq
  · exact (complete_require hn).trans ((complete_startedScan hs ha).trans
      (complete_bind_decodeError (Segment.recvExt_exhausted hpos hb)))

end Sys2Proof.Machine

/-! ## O42 and O43: DEC_BLOCK -/

namespace Sys2Proof.Machine

/-! The AC loop is the passes of R220, one after the other. -/

section
variable {g : Segment} {t : HuffTable}

/-- A pass that goes on moves the loop to its next state, with one symbol less to read. -/
theorem Segment.acLoop_succ_of_step {r r' : BlockRead} (h : g.AcStep t r r') (fuel : Nat) :
    g.acLoop t (fuel + 1) r = g.acLoop t fuel r' := by
  obtain ⟨hk, rs, p, hd, hcase⟩ := h
  rw [Segment.acLoop, if_neg (by omega), hd, except_ok_bind]
  rcases hcase with ⟨rfl, hz, rfl⟩ | ⟨hs, hrun, hb, rfl⟩
  · exact if_neg (Nat.not_lt.mpr hz)
  · refine (if_neg hs).trans ((if_neg (Nat.not_lt.mpr hrun)).trans ?_)
    exact congrArg (· >>= _) (Segment.recvExt_value (.inr hb))

theorem Segment.acStep_kend_lt {r r' : BlockRead} (h : g.AcStep t r r') : r.kend < 64 ∧ r.kend < r'.kend := by
  obtain ⟨hk, rs, p, -, ⟨-, -, rfl⟩ | ⟨-, -, -, rfl⟩⟩ := h <;> dsimp only <;> omega

/-- A pass reads at least one bit. -/
theorem Segment.acStep_pos_lt {r r' : BlockRead} (h : g.AcStep t r r') : r.pos < r'.pos := by
  obtain ⟨-, rs, p, hd, hcase⟩ := h
  obtain ⟨hp, -⟩ := Segment.decodeSym_bound hd
  rcases hcase with ⟨-, -, rfl⟩ | ⟨-, -, -, rfl⟩ <;> dsimp only at hp ⊢ <;> omega

/-- Passes that go on move the loop to where they lead, with symbols left to read to position 64 (R236). -/
theorem Segment.acLoop_of_steps {r m : BlockRead} (h : Relation.ReflTransGen (g.AcStep t) r m) {fuel : Nat}
    (hf : 64 ≤ r.kend + fuel) : ∃ left, 64 ≤ m.kend + left ∧ g.acLoop t fuel r = g.acLoop t left m := by
  induction h using Relation.ReflTransGen.head_induction_on generalizing fuel with
  | refl => exact ⟨fuel, hf, rfl⟩
  | head hstep _ ih =>
    obtain ⟨hk, hk'⟩ := Segment.acStep_kend_lt hstep
    obtain ⟨k, rfl⟩ := Nat.exists_eq_add_of_le' (show 1 ≤ fuel by omega)
    rw [Segment.acLoop_succ_of_step hstep]
    exact ih (by omega)

theorem Segment.acLoop_of_ends {m r : BlockRead} (h : g.AcEnds t m r) {fuel : Nat} (hf : 64 ≤ m.kend + fuel) :
    g.acLoop t fuel m = .ok r := by
  rcases h with ⟨hk, rfl⟩ | ⟨hk, rs, p, hd, hs, hz, rfl⟩
  · cases fuel with
    | zero => rfl
    | succ k => exact if_pos hk
  · obtain ⟨k, rfl⟩ := Nat.exists_eq_add_of_le' (show 1 ≤ fuel by omega)
    rw [Segment.acLoop, if_neg (by omega), hd, except_ok_bind]
    exact (if_pos hs).trans (if_neg fun hrun => hz ((byte_eq_zrl hs).mp hrun))

theorem Segment.acLoop_of_faults {m : BlockRead} {c : ErrCause} (h : g.AcFaults t m c) {fuel : Nat}
    (hf : 64 ≤ m.kend + fuel) : g.acLoop t fuel m = .error (.decodeError c) := by
  obtain ⟨hk, hcase⟩ := h
  obtain ⟨k, rfl⟩ := Nat.exists_eq_add_of_le' (show 1 ≤ fuel by omega)
  rw [Segment.acLoop, if_neg (by omega)]
  rcases hcase with hsym | ⟨rs, p, hd, hcase⟩
  · rw [Segment.decodeSym_of_symFaults hsym, except_error_bind]
  · rw [hd, except_ok_bind]
    rcases hcase with ⟨rfl, hz, rfl⟩ | ⟨hs, hrun, rfl⟩ | ⟨hs, hrun, hb, rfl⟩
    · exact if_pos hz
    · exact (if_neg hs).trans (if_pos hrun)
    · refine (if_neg hs).trans ((if_neg (Nat.not_lt.mpr hrun)).trans ?_)
      exact congrArg (· >>= _) (Segment.recvExt_exhausted (Nat.pos_of_ne_zero hs) hb)

theorem Segment.acSteps_pos_lt {r m : BlockRead} (h : Relation.ReflTransGen (g.AcStep t) r m) : m = r ∨ r.pos < m.pos := by
  induction h with
  | refl => exact .inl rfl
  | tail _ hstep ih =>
    have := Segment.acStep_pos_lt hstep
    rcases ih with rfl | ih <;> omega

theorem Segment.acEnds_endOfBlock {z : Vector (BitVec 16) 64} {pos k p : Nat} {rs : Byte} (hk : k < 64)
    (h : g.decodeSym t pos = .ok (rs, p)) (hs : rs.toNat % 2 ^ 4 = 0) (hz : rs ≠ 0xF0) : g.AcEnds t ⟨z, pos, k⟩ ⟨z, p, k⟩ :=
  .inr ⟨hk, rs, p, h, hs, hz, rfl⟩

/-- The AC part of a block reads at least one bit (R220). -/
theorem Segment.acLoop_pos_lt {fuel : Nat} {r r' : BlockRead} (h : g.acLoop t fuel r = .ok r') (hk : r.kend < 64)
    (hf : 64 ≤ r.kend + fuel) : r.pos < r'.pos := by
  obtain ⟨m, hsteps, hend⟩ := Segment.acLoop_cases h hf
  have hm := Segment.acSteps_pos_lt hsteps
  rcases hend with ⟨hk', rfl⟩ | ⟨-, rs, p, hd, -, -, rfl⟩
  · exact hm.resolve_left fun he => absurd hk (he ▸ Nat.not_lt.mpr hk')
  · obtain ⟨hp, -⟩ := Segment.decodeSym_bound hd
    dsimp only at hp ⊢
    rcases hm with rfl | hm <;> omega

end

/-! The DC part and the whole block (R218, R221). -/

/-- Position 0 of ZZV is in bounds, so the two ways to write it agree. -/
theorem replicate_setIfInBounds (dc : BitVec 16) :
    (Vector.replicate 64 (0 : BitVec 16)).setIfInBounds 0 dc = (Vector.replicate 64 0).set 0 dc := rfl

section
variable {g : Segment} {dcT acT : HuffTable} {pred : BitVec 16} {pos : Nat}

/-- A DC symbol and its difference field that are there (R218). -/
theorem Segment.dcRead_value {sym : Byte} {p : Nat} (hd : g.decodeSym dcT pos = .ok (sym, p)) (hb : p + sym.toNat ≤ g.bits) :
    g.dcRead dcT pred pos =
      .ok (BitVec.ofInt 16 (pred.toInt + extend (g.fieldValue p sym.toNat) sym.toNat), p + sym.toNat) := by
  rw [Segment.dcRead, hd, except_ok_bind]
  exact congrArg (· >>= _) (Segment.recvExt_value (.inr hb))

theorem Segment.dcRead_exhausted {sym : Byte} {p : Nat} (hd : g.decodeSym dcT pos = .ok (sym, p))
    (hb : g.bits < p + sym.toNat) : g.dcRead dcT pred pos = .error (.decodeError g.exhausted) := by
  obtain ⟨-, -, hp⟩ := Segment.decodeSym_bound hd
  rw [Segment.dcRead, hd, except_ok_bind]
  exact congrArg (· >>= _) (Segment.recvExt_exhausted (by dsimp only at hp; omega) hb)

theorem Segment.dcRead_of_symFaults {c : ErrCause} (h : g.SymFaults dcT pos c) :
    g.dcRead dcT pred pos = .error (.decodeError c) := by
  rw [Segment.dcRead, Segment.decodeSym_of_symFaults h, except_error_bind]

/-- The DC part reads at least one bit, none past the segment. -/
theorem Segment.dcRead_bound {r : BitVec 16 × Nat} (h : g.dcRead dcT pred pos = .ok r) : pos < r.2 ∧ r.2 ≤ g.bits := by
  obtain ⟨⟨sym, p⟩, hd, h⟩ := except_bind_eq_ok.mp h
  obtain ⟨diff, hdiff, h⟩ := except_bind_eq_ok.mp h
  obtain ⟨n, hn, -⟩ := Segment.recvExt_eq_ok hdiff
  obtain ⟨hp, -, hpb⟩ := Segment.decodeSym_bound hd
  have := Segment.nextBits_bound hn hpb
  cases h
  dsimp only at hp this ⊢
  omega

/-- A block whose DC part is read goes on to the AC loop (R220). -/
theorem Segment.blockRead_of_dcRead {dc : BitVec 16} {p : Nat} (h : g.dcRead dcT pred pos = .ok (dc, p)) :
    g.blockRead dcT acT pred pos = g.acLoop acT 64 ⟨(Vector.replicate 64 0).set 0 dc, p, 1⟩ := by
  rw [Segment.blockRead, h, except_ok_bind]
  rfl

theorem Segment.blockRead_of_dcRead_error {e : Raise} (h : g.dcRead dcT pred pos = .error e) :
    g.blockRead dcT acT pred pos = .error e := by
  rw [Segment.blockRead, h, except_error_bind]

/-- A block ends at a position in 1..64, at least two bits on and not past the segment (R236). -/
theorem Segment.blockRead_range {r : BlockRead} (h : g.blockRead dcT acT pred pos = .ok r) :
    1 ≤ r.kend ∧ r.kend ≤ 64 ∧ pos + 2 ≤ r.pos ∧ r.pos ≤ g.bits := by
  obtain ⟨⟨dc, p⟩, hdc, hac⟩ := except_bind_eq_ok.mp h
  obtain ⟨hp, hpb⟩ := Segment.dcRead_bound hdc
  obtain ⟨hk, hk', -, hb, -⟩ := Segment.acLoop_bound hac le_rfl (by simp) hpb
  have := Segment.acLoop_pos_lt hac (by simp) (by simp)
  dsimp only at hp this
  omega

end

/-- The predictor of the slot's component is the new COEF[0] (R221). -/
theorem at64_scatterZigzag_zero {w : Nat} (e : Nat → BitVec w) : at64 (scatterZigzag e) 0 = e 0 :=
  at64_scatterZigzag e (k := 0) (by decide)

/-- Natural order and coded order name the same 64 entries (R219). -/
theorem exists_zz_eq : ∀ i < 64, ∃ k < 64, zz k = i := by decide +kernel

/-- A block with coefficient 0 only is the same in both orders. -/
theorem scatterZigzag_dcOnly (dc : BitVec 16) :
    scatterZigzag (at64 ((Vector.replicate 64 0).set 0 dc)) = (Vector.replicate 64 0).set 0 dc := by
  refine Vector.ext fun i hi => ?_
  obtain ⟨k, hk, rfl⟩ := exists_zz_eq i hi
  rw [← at64_lt _ hi, ← at64_lt _ hi, at64_scatterZigzag _ hk, ← replicate_setIfInBounds]
  by_cases h0 : k = 0
  · subst h0; rfl
  · have hzz : 0 ≠ zz k := fun he => h0 (zz_perm.2 k hk 0 (by decide) he.symm)
    rw [at64_set_ne _ _ (Ne.symm h0), at64_set_ne _ _ hzz, at64_zeros, at64_zeros]

/-! The command (R233). -/

section
variable {s : State} {k : BitVec 2}

/-- The block of slot k is read by the slot's tables from the cursor on, with the predictor of its component (R221). -/
def State.readBlock (s : State) (k : Nat) : Except Raise BlockRead :=
  s.segment.blockRead (s.ht 0 (s.slot k).td) (s.ht 1 (s.slot k).ta) (s.pred.get (s.slotComp k)) s.bitpos.toNat

theorem State.decodeBlock_of_readBlock {i : Nat} {r : BlockRead} (h : s.readBlock i = .ok r) :
    s.decodeBlock i = .ok
      ({ s with
          bitpos := BitVec.ofNat 35 r.pos, coef := scatterZigzag (at64 r.zzv)
          pred := s.pred.set (s.slotComp i) (at64 r.zzv 0) }, r.kend) :=
  congrArg (· >>= _) h

theorem State.decodeBlock_of_readBlock_error {i : Nat} {e : Raise} (h : s.readBlock i = .error e) :
    s.decodeBlock i = .error e :=
  congrArg (· >>= _) h

variable (hs : s.sess = .started) (ha : s.scanact = true) (hk : k.toNat < s.ns.toNat)
include hs ha hk

theorem exec_decBlock_of_readBlock {r : BlockRead} (h : s.readBlock k.toNat = .ok r) :
    exec (.decBlock k) s = .next { s with
      coef := scatterZigzag (at64 r.zzv), pred := s.pred.set (s.slotComp k.toNat) (at64 r.zzv 0)
      bitpos := BitVec.ofNat 35 r.pos, res := BitVec.ofNat 32 r.kend, result := .ok } :=
  (Completes.decBlock hs ha hk (State.decodeBlock_of_readBlock h)).exec_eq

theorem exec_decBlock_of_fault {c : ErrCause} (h : s.readBlock k.toNat = .error (.decodeError c)) :
    exec (.decBlock k) s = .next (s.decodeError 0x13 c) :=
  (complete_startedScan hs ha).trans
    ((complete_require hk).trans (complete_bind_decodeError (State.decodeBlock_of_readBlock_error h)))

end

/-- Settles O42: the DC part is read or faults, and the AC loop follows the passes to where it ends or faults. -/
theorem decBlockDecodesSlot : Obligations.DecBlockDecodesSlot := by
  unfold Obligations.DecBlockDecodesSlot
  refine fun k s => ⟨commandFront (.decBlock k) s, fun hs ha hk => ?_, fun t kend hs ha hk hd => ?_, fun hs ha hk => ?_⟩
  · exact (complete_startedScan hs ha).trans (complete_require_precond (Nat.not_lt.mpr hk))
  · obtain ⟨r, hr, rfl, rfl⟩ := State.decodeBlock_cases hd
    obtain ⟨hkend, hkend', hpos, hb⟩ := Segment.blockRead_range hr
    have hbits := s.segment_bits_lt
    have hnat : (BitVec.ofNat 35 r.pos).toNat = r.pos := (BitVec.toNat_ofNat _ _).trans (Nat.mod_eq_of_lt (by omega))
    dsimp only
    rw [at64_scatterZigzag_zero, hnat]
    exact ⟨exec_decBlock_of_readBlock hs ha hk hr, hkend, hkend', hpos, hb⟩
  · dsimp only
    refine ⟨fun c hc => ?_, fun sym p hd => ⟨fun hb => ?_, fun hb m hsteps => ?_⟩⟩
    · exact exec_decBlock_of_fault hs ha hk (Segment.blockRead_of_dcRead_error (Segment.dcRead_of_symFaults hc))
    · exact exec_decBlock_of_fault hs ha hk (Segment.blockRead_of_dcRead_error (Segment.dcRead_exhausted hd hb))
    · obtain ⟨left, hleft, hloop⟩ := Segment.acLoop_of_steps hsteps (fuel := 64) (by simp)
      have hread := (Segment.blockRead_of_dcRead (Segment.dcRead_value hd hb)).trans hloop
      refine ⟨fun r hr => ?_, fun c hc => ?_⟩
      · have hend := Segment.acLoop_of_ends hr hleft
        obtain ⟨-, -, -, -, hdc⟩ := Segment.acLoop_bound (hloop.trans hend) le_rfl (by simp) hb
        have hexec := exec_decBlock_of_readBlock hs ha hk (hread.trans hend)
        rw [hdc] at hexec
        exact ⟨_, hexec, fun n hn => at64_scatterZigzag _ hn⟩
      · exact exec_decBlock_of_fault hs ha hk (hread.trans (Segment.acLoop_of_faults hc hleft))

/-- Settles O43: the AC loop ends at its first pass. -/
theorem decBlockDcOnly : Obligations.DecBlockDcOnly := by
  unfold Obligations.DecBlockDcOnly
  intro k s dcSym acSym p1 p2 hs ha hk hdc hb hac hsize hzrl
  refine ⟨_, rfl, ?_⟩
  have hread := (Segment.blockRead_of_dcRead (pred := s.pred.get (s.slotComp k.toNat)) (Segment.dcRead_value hdc hb)).trans
    (Segment.acLoop_of_ends (Segment.acEnds_endOfBlock (by decide) hac hsize fun he => hzrl (congrArg BitVec.toNat he))
      (by simp))
  have hexec := exec_decBlock_of_readBlock hs ha hk hread
  rwa [scatterZigzag_dcOnly] at hexec

end Sys2Proof.Machine

/-! ## O44 and O45: DEC_MCU and the restart -/

namespace Sys2Proof.Machine

/-! The restart before an MCU (R222, R229). -/

theorem restartDue_iff {ri : BitVec 16} {m : Nat} : restartDue ri m = true ↔ 0 < ri.toNat ∧ 0 < m ∧ m % ri.toNat = 0 := by
  simp [restartDue, and_assoc]

section
variable {s : State}

theorem State.restartIfDue_of_due {m : Nat} (h : 0 < s.ri.toNat ∧ 0 < m ∧ m % s.ri.toNat = 0) :
    s.restartIfDue m = s.restart := if_pos (restartDue_iff.mpr h)

/-- The restart that is due goes through, or none is due. -/
theorem State.restartIfDue_eq_ok {s1 : State} {m : Nat}
    (h : if 0 < s.ri.toNat ∧ 0 < m ∧ m % s.ri.toNat = 0 then s.restart = .ok s1 else s1 = s) :
    s.restartIfDue m = .ok s1 := by
  split at h <;> rename_i hdue
  · rw [State.restartIfDue_of_due hdue, h]
  · rw [h]
    exact if_neg fun hd => hdue (restartDue_iff.mp hd)

theorem State.restart_trailing (h : alignUp s.bitpos.toNat < s.segment.bits) :
    s.restart = .error (.decodeError .rstTrailing) := by
  unfold State.restart
  dsimp only
  rw [require_false _ (not_not.mpr h), except_error_bind]

variable (hb : s.segment.bits ≤ alignUp s.bitpos.toNat)
include hb

theorem State.restart_missing (hstop : s.segment.stop = .endOfInput) : s.restart = .error (.decodeError .rstMissing) := by
  unfold State.restart
  dsimp only
  rw [require_true _ (Nat.not_lt.mpr hb), except_ok_bind, hstop]

variable {code : Byte} {a n : Nat} (hstop : s.segment.stop = .marker code a n)
include hstop

theorem State.restart_mismatch (hcode : code.toNat ≠ 0xD0 + s.rstnext.toNat) :
    s.restart = .error (.decodeError .rstMismatch) := by
  unfold State.restart
  dsimp only
  rw [require_true _ (Nat.not_lt.mpr hb), except_ok_bind, hstop]
  exact congrArg (· >>= _) (require_false _ hcode)

theorem State.restart_ok (hcode : code.toNat = 0xD0 + s.rstnext.toNat) :
    s.restart = .ok { s with seg := BitVec.ofNat 32 n, bitpos := 0, pred := .all 0, rstnext := s.rstnext + 1 } := by
  unfold State.restart
  dsimp only
  rw [require_true _ (Nat.not_lt.mpr hb), except_ok_bind, hstop]
  exact congrArg (· >>= _) (require_true _ hcode)

end

/-- What decoding and storing blocks leaves of the segment and the restart count. -/
theorem State.mcuBlock_seg_rstnext {s t : State} {b : McuBlock} (h : s.mcuBlock b = .ok t) :
    t.seg = s.seg ∧ t.rstnext = s.rstnext := by
  obtain ⟨u, kend, hu, rfl⟩ := State.mcuBlock_cases h
  obtain ⟨r, -, -, rfl⟩ := State.decodeBlock_cases hu
  exact ⟨rfl, rfl⟩

theorem State.mcuBlocks_seg_rstnext {s t : State} {bs : List McuBlock} (h : bs.foldlM State.mcuBlock s = .ok t) :
    t.seg = s.seg ∧ t.rstnext = s.rstnext :=
  foldlM_keeps (P := fun u => u.seg = s.seg ∧ u.rstnext = s.rstnext)
    (fun ⟨hseg, hrst⟩ hb => by
      obtain ⟨hseg', hrst'⟩ := State.mcuBlock_seg_rstnext hb
      exact ⟨hseg'.trans hseg, hrst'.trans hrst⟩) ⟨rfl, rfl⟩ h

/-- The blocks of an MCU fault where the first of them that does not decode does. -/
theorem State.mcuBlocks_fault {s u : State} {done left : List McuBlock} {b : McuBlock} {e : Raise}
    (hdone : done.foldlM State.mcuBlock s = .ok u) (hb : u.decodeBlock b.slot = .error e) :
    (done ++ b :: left).foldlM State.mcuBlock s = .error e := by
  rw [List.foldlM_append, hdone, except_ok_bind, List.foldlM_cons, State.mcuBlock, hb, except_error_bind, except_error_bind]

/-- DEC_MCU with a scan active and MCUs left goes on to the restart that is due (R234). -/
theorem exec_decMcu_of_scan {s : State} (hs : s.sess = .started) (ha : s.scanact = true)
    (hm : s.mcucnt.toNat < s.mcutot.toNat) :
    exec .decMcu s = complete 0x14 s (do
      let s1 ← s.restartIfDue s.mcucnt.toNat
      let s2 ← (s1.mcuBlocks s.mcucnt.toNat).foldlM State.mcuBlock s1
      .ok { s2 with mcucnt := BitVec.ofNat 32 (s.mcucnt.toNat + 1), res := BitVec.ofNat 32 (s.mcucnt.toNat + 1) }) :=
  (complete_startedScan hs ha).trans (complete_require hm)

/-- Settles O44: the frame by `State.sameButMcu_decMcu`, the faults by `State.mcuBlocks_fault`. -/
theorem decMcuCountsMcu : Obligations.DecMcuCountsMcu := by
  unfold Obligations.DecMcuCountsMcu
  refine fun s => ⟨commandFront .decMcu s, fun hs ha hm => ?_, fun s1 s2 hs ha hm h1 h2 => ?_,
    fun s1 u done left b c hs ha hm h1 hblocks hdone hb => ?_⟩
  · exact (complete_startedScan hs ha).trans (complete_require_precond (Nat.not_lt.mpr hm))
  · have hrestart := State.restartIfDue_eq_ok h1
    have hcount : BitVec.ofNat 32 (s.mcucnt.toNat + 1) = s.mcucnt + 1 := by
      rw [BitVec.ofNat_add, BitVec.ofNat_toNat, BitVec.setWidth_eq]
      rfl
    obtain ⟨hseg, hrst⟩ := State.mcuBlocks_seg_rstnext h2
    refine (Completes.decMcu hs ha hm hrestart h2).exec_eq.trans ?_
    rw [hcount, ← hseg, ← hrst]
    cases State.sameButMcu_decMcu hrestart h2
    rfl
  · rw [exec_decMcu_of_scan hs ha hm, State.restartIfDue_eq_ok h1, except_ok_bind]
    exact complete_bind_decodeError (hblocks ▸ State.mcuBlocks_fault hdone hb)

/-- A fault of the restart that is due ends DEC_MCU. -/
theorem exec_decMcu_of_restart_fault {s : State} {c : ErrCause} (hs : s.sess = .started) (ha : s.scanact = true)
    (hm : s.mcucnt.toNat < s.mcutot.toNat) (hdue : 0 < s.ri.toNat ∧ 0 < s.mcucnt.toNat ∧ s.mcucnt.toNat % s.ri.toNat = 0)
    (h : s.restart = .error (.decodeError c)) : exec .decMcu s = .next (s.decodeError 0x14 c) :=
  (exec_decMcu_of_scan hs ha hm).trans (complete_bind_decodeError ((State.restartIfDue_of_due hdue).trans h))

/-- Settles O45: its three checks fail one at a time. -/
theorem restartBetweenIntervals : Obligations.RestartBetweenIntervals := by
  unfold Obligations.RestartBetweenIntervals
  intro s hs ha hm hri h0 hmod
  have hfault := fun c => exec_decMcu_of_restart_fault (c := c) hs ha hm ⟨hri, h0, hmod⟩
  refine ⟨fun hb => ?_, fun hb hstop => ?_, fun code a n hb hstop hcode => ?_, fun code a n hb hstop hcode => ?_⟩
  · exact hfault _ (State.restart_trailing hb)
  · exact hfault _ (State.restart_missing hb hstop)
  · exact hfault _ (State.restart_mismatch hb hstop hcode)
  · have hnext : BitVec.ofNat 3 ((s.rstnext.toNat + 1) % 8) = s.rstnext + 1 :=
      BitVec.eq_of_toNat_eq (by simp [BitVec.toNat_add])
    rw [hnext]
    exact State.restart_ok hb hstop hcode

end Sys2Proof.Machine

/-! ## O47: SCAN_END -/

namespace Sys2Proof.Machine

section
variable {s : State} (hs : s.sess = .started) (ha : s.scanact = true) (hm : s.mcutot.toNat ≤ s.mcucnt.toNat)
  (hb : s.segment.bits ≤ alignUp s.bitpos.toNat)
include hs ha hm hb

/-- SCAN_END with its scan decoded and no data bytes left, in a segment that IN ends (R235). -/
theorem exec_scanEnd_noMarker (hstop : s.segment.stop = .endOfInput) :
    exec .scanEnd s = .next (s.decodeError 0x15 .endNoMarker) := by
  simp only [exec, execScanEnd]
  rw [complete_startedScan hs ha, complete_require (Nat.not_lt.mpr hm),
    complete_require (Nat.not_lt.mpr hb), hstop]
  exact complete_decodeError 0x15 s .endNoMarker

/-- SCAN_END likewise, in a segment that a restart marker ends (R235). -/
theorem exec_scanEnd_unexpectedRst {code : Byte} {a n : Nat} (hstop : s.segment.stop = .marker code a n)
    (hcode : 0xD0 ≤ code.toNat ∧ code.toNat ≤ 0xD7) :
    exec .scanEnd s = .next (s.decodeError 0x15 .endUnexpectedRst) := by
  simp only [exec, execScanEnd]
  rw [complete_startedScan hs ha, complete_require (Nat.not_lt.mpr hm),
    complete_require (Nat.not_lt.mpr hb), hstop]
  exact complete_require_decodeError (not_not.mpr hcode)

end

/-- Settles O47: its four checks fail one at a time. -/
theorem scanEndAtMarker : Obligations.ScanEndAtMarker := by
  unfold Obligations.ScanEndAtMarker
  refine fun s => ⟨commandFront .scanEnd s, fun hs ha => ?_⟩
  refine ⟨fun hm => ?_, fun hm hb => ?_, fun hm hb hstop => ?_, fun code a n hm hb hstop hlow hhigh => ?_,
    fun code a n hm hb hstop hcode => ?_⟩
  · exact (complete_startedScan hs ha).trans (complete_require_precond (not_not.mpr hm))
  · exact (complete_startedScan hs ha).trans ((complete_require (Nat.not_lt.mpr hm)).trans
      (complete_require_decodeError (not_not.mpr hb)))
  · exact exec_scanEnd_noMarker hs ha hm hb hstop
  · exact exec_scanEnd_unexpectedRst hs ha hm hb hstop ⟨hlow, hhigh⟩
  · exact (Completes.scanEnd hs ha hm hb hstop (by omega)).exec_eq

end Sys2Proof.Machine

/-! ## O58: the blocks of an MCU -/

namespace Sys2Proof.Machine

section
variable {α : Type} {f : Nat → List α}

/-- An element of the n-th part stands behind all elements of the parts before it. -/
theorem getElem?_flatMap_range {n N k : Nat} (hn : n < N) (hk : k < (f n).length) :
    ((List.range N).flatMap f)[((List.range n).flatMap f).length + k]? = (f n)[k]? := by
  have hsplit : List.range N = List.range n ++ n :: (List.range (N - (n + 1))).map (n + 1 + ·) := by
    rw [List.append_cons, ← List.range_succ, ← List.range_add]
    congr 1
    omega
  rw [hsplit, List.flatMap_append, List.flatMap_cons, List.getElem?_append_right (Nat.le_add_right _ _),
    Nat.add_sub_cancel_left, List.getElem?_append_left hk]

end

section
variable {α : Type} {w h : Nat} (e : Nat → Nat → α)

/-- The h rows of w elements each, row by row. -/
theorem length_rows : ((List.range h).flatMap fun j => (List.range w).map (e j)).length = w * h := by
  simp [Nat.mul_comm]

theorem getElem?_rows {i j : Nat} (hi : i < w) (hj : j < h) :
    ((List.range h).flatMap fun j => (List.range w).map (e j))[j * w + i]? = some (e j i) := by
  have hrow := getElem?_flatMap_range (f := fun j => (List.range w).map (e j)) hj (k := i) (by simpa using hi)
  rw [length_rows, Nat.mul_comm] at hrow
  simpa [hi] using hrow

end

/-- The blocks of one slot of an interleaved MCU (R225). -/
def State.slotBlocks (s : State) (m i : Nat) : List McuBlock :=
  (List.range (s.vOf (s.slotComp i))).flatMap fun j => (List.range (s.hOf (s.slotComp i))).map fun k =>
    ⟨i, s.slotComp i, m % s.mcux * s.hOf (s.slotComp i) + k, m / s.mcux * s.vOf (s.slotComp i) + j⟩

section
variable (s : State) (m : Nat)

theorem State.mcuBlocks_interleaved (h : 1 < s.ns.toNat) :
    s.mcuBlocks m = (List.range s.ns.toNat).flatMap (s.slotBlocks m) := if_pos h

theorem State.slotBlocks_length (i : Nat) : (s.slotBlocks m i).length = s.hOf (s.slotComp i) * s.vOf (s.slotComp i) :=
  length_rows _

/-- The blocks of the first n slots are as many as the sum of their H * V (R178). -/
theorem State.slotBlocks_before (n : Nat) :
    ((List.range n).flatMap (s.slotBlocks m)).length =
      ((List.range n).map fun i => s.hOf (s.slotComp i) * s.vOf (s.slotComp i)).sum := by
  simp only [List.length_flatMap, State.slotBlocks_length]

theorem State.slotBlocks_getElem? {n i j : Nat} (hi : i < s.hOf (s.slotComp n)) (hj : j < s.vOf (s.slotComp n)) :
    (s.slotBlocks m n)[j * s.hOf (s.slotComp n) + i]? = some
      ⟨n, s.slotComp n, m % s.mcux * s.hOf (s.slotComp n) + i, m / s.mcux * s.vOf (s.slotComp n) + j⟩ :=
  getElem?_rows _ hi hj

end

/-- Settles O58: the order inside a slot by `State.slotBlocks_getElem?` and over the slots by `getElem?_flatMap_range`, the
positions by `State.Legal.mcuBlock_inside`. -/
theorem blocksInsidePlanes : Obligations.BlocksInsidePlanes := by
  unfold Obligations.BlocksInsidePlanes
  refine ⟨fun s m => ⟨fun hns => ?_, fun hns => if_neg (by omega)⟩, fun s m b h ha hm hb => h.mcuBlock_inside ha hm hb⟩
  rw [s.mcuBlocks_interleaved m hns]
  refine ⟨s.slotBlocks_before m _, fun n i j hn hi hj => ?_⟩
  have hin : j * s.hOf (s.slotComp n) + i < (s.slotBlocks m n).length := by
    rw [State.slotBlocks_length, Nat.mul_comm (s.hOf _)]
    exact mul_add_lt_mul hj hi
  dsimp only
  rw [← s.slotBlocks_before m n, Nat.add_assoc, getElem?_flatMap_range hn hin]
  exact s.slotBlocks_getElem? m hi hj

end Sys2Proof.Machine

/-! # The family 44_idct.md: inverse quantisation, the inverse DCT, the planes -/

/-! ## O48: DEQUANT -/

namespace Sys2Proof.Machine

/-- In STARTED a command that needs no more of the state passes its state check (R320). -/
theorem complete_started {op : BitVec 6} {s : State} {f : Unit → Except Raise State} (hs : s.sess = .started) :
    complete op s (stateCheck .started s >>= f) = complete op s (f ()) :=
  complete_stateCheck (stateCause_started.mpr hs)

/-- A signed 16-bit value times an unsigned one fits signed 32 bits (R266). -/
theorem toInt_ofInt_mul (a b : BitVec 16) : (BitVec.ofInt 32 (a.toInt * b.toNat)).toInt = a.toInt * b.toNat := by
  have hlow := BitVec.le_toInt a
  have hhigh := BitVec.toInt_lt (x := a)
  have hb : (b.toNat : Int) ≤ 2 ^ 16 - 1 := by have := b.isLt; omega
  refine BitVec.toInt_ofInt_eq_self (by decide) ?_ ?_
  · calc -2 ^ 31 ≤ -2 ^ 15 * (2 ^ 16 - 1 : Int) := by decide
      _ ≤ -2 ^ 15 * (b.toNat : Int) := by omega
      _ ≤ a.toInt * b.toNat := mul_le_mul_of_nonneg_right hlow (Int.natCast_nonneg _)
  · calc a.toInt * b.toNat ≤ 2 ^ 15 * (b.toNat : Int) := mul_le_mul_of_nonneg_right hhigh.le (Int.natCast_nonneg _)
      _ < 2 ^ 31 := by omega

/-- Every entry of the dequantised block is the exact product (R266). -/
theorem toInt_at64_dequantise (coef q : Vector (BitVec 16) 64) {i : Nat} (hi : i < 64) :
    (at64 (dequantise coef q) i).toInt = (at64 coef i).toInt * (at64 q i).toNat := by
  rw [dequantise, at64_ofFn _ hi, toInt_ofInt_mul]

/-- Settles O48: its one check after the front fails, or its one way to complete stores the exact products. -/
theorem dequantMultipliesExactly : Obligations.DequantMultipliesExactly := by
  unfold Obligations.DequantMultipliesExactly
  refine fun tq s => ⟨commandFront (.dequant tq) s, fun hs hq => ?_, fun hs hq => ?_⟩
  · exact (complete_started hs).trans (complete_require_precond (Bool.eq_false_iff.mp hq))
  · exact ⟨_, (Completes.dequant hs hq).exec_eq, fun i hi => toInt_at64_dequantise s.coef _ hi⟩

end Sys2Proof.Machine

/-! ## O49: IDCT -/

namespace Sys2Proof.Machine

/-- `clamp8` saturates: what it leaves is the value held to 0 .. 255 (R8, R263). -/
theorem clamp8_toNat (v : Int) : ((clamp8 v).toNat : Int) = max 0 (min 255 v) := by
  unfold clamp8
  split
  · rw [max_eq_left (by omega)]; rfl
  · split
    · rw [min_eq_left (by omega)]; rfl
    · rw [BitVec.toNat_ofInt]; omega

/-- R268 writes the eight products of a pass out; they are the sum over the row of K. -/
theorem idctSum_eq_sum (x : Nat) (f : Nat → Int) : idctSum x f = ∑ w ∈ Finset.range 8, idctK x w * f w := by
  simp [idctSum, Finset.sum_range_succ]

section
variable (dq : Vector (BitVec 32) 64) {x y : Nat}

/-- Row y, column u of the block's r1 is pass 1 there (R268). -/
theorem idctColumns_getD {u : Nat} (hu : u < 8) (hy : y < 8) : (idctColumns dq).getD (8 * y + u) 0 = idctPass1 dq y u := by
  have hi : 8 * y + u < 64 := by omega
  have hrow : (8 * y + u) / 8 = y := by omega
  have hcol : (8 * y + u) % 8 = u := by omega
  simp [idctColumns, Vector.getD, hi, hrow, hcol]

/-- The sum of pass 2 is over pass 1's values (R268). -/
theorem idctPass2_columns (hy : y < 8) :
    idctPass2 (idctColumns dq) y x = asr (idctSum x (idctPass1 dq y) + 16384) 15 := by
  simp only [idctPass2, idctSum, idctColumns_getD dq _ hy, Nat.reduceLT]

/-- One sample of the transform: pass 2, shifted by 128 and saturated (R263, R268). -/
theorem at64_idctInt (hx : x < 8) (hy : y < 8) :
    at64 (idctInt dq) (8 * y + x) = clamp8 (asr (idctSum x (idctPass1 dq y) + 16384) 15 + 128) := by
  have hrow : (8 * y + x) / 8 = y := by omega
  have hcol : (8 * y + x) % 8 = x := by omega
  rw [idctInt, at64_ofFn _ (by omega), hrow, hcol, idctPass2_columns dq hy]

end

/-- Settles O49, sample by sample by `at64_idctInt`, both sums by `idctSum_eq_sum`. -/
theorem idctComputesSamples : Obligations.IdctComputesSamples := by
  unfold Obligations.IdctComputesSamples
  refine fun s => ⟨commandFront .idct s, fun hs => ⟨_, (Completes.idct hs).exec_eq, fun x y hx hy => ?_⟩⟩
  rw [idctImpl, at64_idctInt s.dq hx hy, clamp8_toNat]
  simp only [idctPass1, idctSum_eq_sum, asr]

end Sys2Proof.Machine

/-! ## O50: blocks with a DC coefficient only -/

namespace Sys2Proof.Machine

/-- The first column of K is constant (R267). -/
theorem idctK_zero : ∀ x < 8, idctK x 0 = 2896 := by decide

/-- Of terms that vanish after the first, the sum of a pass is 2896 times the first. -/
theorem idctSum_of_tail_zero {x : Nat} {f : Nat → Int} (hx : x < 8) (hf : ∀ w, 0 < w → w < 8 → f w = 0) :
    idctSum x f = 2896 * f 0 := by
  simp [idctSum, idctK_zero x hx, hf]

/-- What both passes make of a block whose one coefficient is d at frequency (0, 0) (R268). -/
def idctDc (d : Int) : Int := asr (2896 * asr (2896 * d + 1024) 11 + 16384) 15

section
variable {dq : Vector (BitVec 32) 64} (hdc : ∀ i, 0 < i → i < 64 → at64 dq i = 0) {x y : Nat}
include hdc

/-- A DC-only block has one coefficient in each column, and pass 1 scales it. -/
theorem idctPass1_dcOnly {u : Nat} (hy : y < 8) (hu : u < 8) :
    idctPass1 dq y u = asr (2896 * (at64 dq u).toInt + 1024) 11 := by
  rw [idctPass1, idctSum_of_tail_zero hy fun v h0 h8 => by rw [hdc _ (by omega) (by omega)]; rfl]
  simp

/-- Every sample of a DC-only block is the same. -/
theorem at64_idctInt_dcOnly (hx : x < 8) (hy : y < 8) :
    at64 (idctInt dq) (8 * y + x) = clamp8 (idctDc (at64 dq 0).toInt + 128) := by
  have htail : ∀ u, 0 < u → u < 8 → idctPass1 dq y u = 0 := fun u h0 h8 => by
    rw [idctPass1_dcOnly hdc hy h8, hdc u h0 (by omega)]
    decide
  rw [at64_idctInt dq hx hy, idctSum_of_tail_zero hx htail, idctPass1_dcOnly hdc hy (by decide), idctDc]

end

/-- d/8 rounded to the nearest integer, halves away from zero (R262). -/
def rhazEighth (d : Int) : Int := if 0 ≤ d then (d + 4) / 8 else -((-d + 4) / 8)

/-- Where the level shift does not saturate, the rounding errors of the two passes together keep the result a nearest integer to
d/8, one of the two at an exact half. -/
theorem idctDc_nearest {d : Int} (hlow : -1100 ≤ d) (hhigh : d ≤ 1100) :
    -4 ≤ 8 * idctDc d - d ∧ 8 * idctDc d - d ≤ 4 := by
  unfold idctDc asr
  constructor <;> omega

theorem rhazEighth_nearest (d : Int) : -4 ≤ 8 * rhazEighth d - d ∧ 8 * rhazEighth d - d ≤ 4 := by
  unfold rhazEighth
  split <;> omega

/-- Outside that range both saturate, to the same side. -/
theorem idctDc_saturates {d : Int} (h : d < -1100 ∨ 1100 < d) :
    max 0 (min 255 (idctDc d + 128)) = max 0 (min 255 (rhazEighth d + 128)) := by
  unfold idctDc rhazEighth asr
  split <;> omega

/-- Settles O50: two nearest integers to d/8 are at most 1 apart, and are one but at an exact half. -/
theorem idctDcOnlyAccuracy : Obligations.IdctDcOnlyAccuracy := by
  unfold Obligations.IdctDcOnlyAccuracy
  intro dq hdc _ _
  dsimp only
  generalize hd : (at64 dq 0).toInt = d
  refine ⟨max 0 (min 255 (idctDc d + 128)), fun i hi => ?_, ?_⟩
  · have hrow : i / 8 < 8 := by omega
    rw [← hd, ← clamp8_toNat, ← at64_idctInt_dcOnly hdc (Nat.mod_lt i (by decide)) hrow, Nat.div_add_mod]
  · rw [← rhazEighth, abs_le]
    by_cases h : d < -1100 ∨ 1100 < d
    · rw [idctDc_saturates h]; simp
    · have h1 := idctDc_nearest (d := d) (by omega) (by omega)
      have h2 := rhazEighth_nearest d
      omega

end Sys2Proof.Machine

/-! ## O51: PUT_BLOCK -/

namespace Sys2Proof.Machine

/-- A block store puts sample (x, y) of SAMP at its place in the block (R272). -/
theorem Plane.sample?_putBlock_inside {bx x y : Nat} (p : Plane) (row : Nat) (samp : Vector Byte 64) (hb : bx < 65536)
    (hx : x < 8) (hy : y < 8) :
    Plane.sample? (Plane.putBlock p bx row samp) (8 * bx + x) (8 * row + y) = some (at64 samp (8 * y + x)) := by
  have hcol : (8 * y + x) % 8 = x := by omega
  have hrow : (8 * y + x) / 8 = y := by omega
  have h := Plane.sample?_foldl_put_mem (List.range 64) (fun i => 8 * bx + i % 8) (fun i => 8 * row + i / 8) (at64 samp) p
    (i := 8 * y + x) (List.mem_range.mpr (by omega)) (fun i _ => by omega)
    (fun i _ hx' hy' => congrArg (at64 samp) (by omega))
  rwa [hcol, hrow] at h

/-- PUT_BLOCK in STARTED with its field in range goes on to its own two checks (R272). -/
theorem exec_putBlock_of_started {c : BitVec 2} {s : State} (hc : c.toNat ≤ 2) (hs : s.sess = .started) :
    exec (.putBlock c) s = complete 0x1A s (do
      require (c.toNat < s.nf.toNat) (.precond .badComp)
      require (s.argLow.toNat < (s.geom.get c.toNat).pbw ∧ s.argHigh.toNat < (s.geom.get c.toNat).pbh) (.precond .blockRange)
      .ok { s with
            planes := s.planes.set c.toNat
              (Plane.putBlock (s.planes.get c.toNat) s.argLow.toNat s.argHigh.toNat s.samp) }) :=
  (complete_require hc).trans (complete_started hs)

/-- Settles O51: its two checks fail one at a time, and a sample is read back inside and outside the stored block. -/
theorem putBlockStoresSamples : Obligations.PutBlockStoresSamples := by
  unfold Obligations.PutBlockStoresSamples
  intro c s
  dsimp only
  rw [← s.argLow_toNat, ← s.argHigh_toNat]
  refine ⟨commandFront (.putBlock c) s, fun hc hs => ⟨fun hnf => ?_, fun hnf hr => ?_, fun hnf hx hy => ?_⟩⟩
  · rw [exec_putBlock_of_started hc hs, complete_require_precond (Nat.not_lt.mpr hnf)]
  · rw [exec_putBlock_of_started hc hs, complete_require hnf, complete_require_precond (by omega)]
  · exact ⟨_, (Completes.putBlock hc hs hnf ⟨hx, hy⟩).exec_eq,
      fun x y => Plane.sample?_putBlock_inside _ _ s.samp s.argLow.isLt,
      fun x y => Plane.sample?_putBlock_outside _ s.samp s.argLow.isLt⟩

end Sys2Proof.Machine

/-! # The family 45_color.md: colour conversion, the bytes of a row, CC_ROW and CC_PIX -/

/-! ## O53: the pixel a row shows -/

namespace Sys2Proof.Machine

section
variable (y cb cr : Byte)

/-- The three channels of R290's matrix, saturated. -/
theorem convYcc_b0_toNat : ((convYcc y cb cr).b0.toNat : Int) =
    max 0 (min 255 ((y.toNat : Int) + (91881 * ((cr.toNat : Int) - 128) + 32768) / 2 ^ 16)) :=
  clamp8_toNat _

theorem convYcc_b1_toNat : ((convYcc y cb cr).b1.toNat : Int) =
    max 0 (min 255
      ((y.toNat : Int) + (-22554 * ((cb.toNat : Int) - 128) - 46802 * ((cr.toNat : Int) - 128) + 32768) / 2 ^ 16)) :=
  clamp8_toNat _

theorem convYcc_b2_toNat : ((convYcc y cb cr).b2.toNat : Int) =
    max 0 (min 255 ((y.toNat : Int) + (116130 * ((cb.toNat : Int) - 128) + 32768) / 2 ^ 16)) :=
  clamp8_toNat _

end

theorem State.pixel_of_gray {s : State} (h : s.nf.toNat = 1) (x y : Nat) :
    s.pixel x y = convGray (Plane.sample (s.planes.get 0) x y) := if_pos h

theorem State.pixel_of_colour {s : State} (h : s.nf.toNat = 3) (x y : Nat) :
    s.pixel x y = convYcc (s.shown 0 x y) (s.shown 1 x y) (s.shown 2 x y) := if_neg (by omega)

/-- Settles O53: one component is shown as it is, and three go through the matrix, channel by channel. -/
theorem pixelNearest : Obligations.PixelNearest := by
  unfold Obligations.PixelNearest
  refine fun s x y => ⟨fun h => s.pixel_of_gray h x y, fun h => ?_⟩
  rw [s.pixel_of_colour h]
  exact ⟨convYcc_b0_toNat _ _ _, convYcc_b1_toNat _ _ _, convYcc_b2_toNat _ _ _⟩

end Sys2Proof.Machine

/-! ## O55: CC_PIX -/

namespace Sys2Proof.Machine

/-! CORDER swaps the first and the third byte of a pixel (R290). -/

section
variable (o : ChannelOrder) (p : Pixel)

theorem orderBytes_b0 : (orderBytes o p).b0 = if o = .rgb then p.b0 else p.b2 := by cases o <;> rfl

@[simp] theorem orderBytes_b1 : (orderBytes o p).b1 = p.b1 := by cases o <;> rfl

theorem orderBytes_b2 : (orderBytes o p).b2 = if o = .rgb then p.b2 else p.b0 := by cases o <;> rfl

end

/-- RES as CC_PIX fills it: three bytes, the first one lowest (R294). -/
theorem Pixel.word_toNat (p : Pixel) :
    ((0#8 ++ p.b2 ++ p.b1 ++ p.b0).toNat : Int) = p.b0.toNat + p.b1.toNat * 256 + p.b2.toNat * 65536 := by
  rw [toNat_append_eq (0#8 ++ p.b2 ++ p.b1), toNat_append_eq (0#8 ++ p.b2), toNat_append_eq 0#8, BitVec.toNat_zero]
  push_cast
  ring

theorem State.argByte_toNat (s : State) (i : Nat) : (s.argByte i).toNat = s.arg.toNat / 2 ^ (8 * i) % 256 := by
  rw [State.argByte, BitVec.extractLsb'_toNat, Nat.shiftRight_eq_div_pow]

/-- Settles O55: the word's three bytes are the converter's channels, in one order or the other. -/
theorem ccPixConvertsTriple : Obligations.CcPixConvertsTriple := by
  unfold Obligations.CcPixConvertsTriple
  refine fun s => ⟨decodeOfEncode .ccPix, _, Completes.ccPix.exec_eq, ?_⟩
  have hy : (s.argByte 0).toNat = s.arg.toNat % 256 := by rw [s.argByte_toNat, Nat.mul_zero, Nat.pow_zero, Nat.div_one]
  rw [← hy, ← s.argByte_toNat 1, ← s.argByte_toNat 2]
  dsimp only
  rw [← convYcc_b0_toNat, ← convYcc_b1_toNat, ← convYcc_b2_toNat, Pixel.word_toNat, orderBytes_b0, orderBytes_b1,
    orderBytes_b2]
  split <;> rfl

end Sys2Proof.Machine

/-! ## O52 and O54: CC_ROW -/

namespace Sys2Proof.Machine

/-! The bytes of a row, three for each pixel (R291). -/

/-- The three bytes of a pixel, in the order they are written in. -/
def Pixel.bytes (p : Pixel) : List Byte := [p.b0, p.b1, p.b2]

/-- The first n pixels of a row are 3n bytes. -/
theorem length_flatMap_bytes (f : Nat → Pixel) (n : Nat) :
    ((List.range n).flatMap fun x => (f x).bytes).length = 3 * n := by
  simp [Pixel.bytes, Nat.mul_comm]

section
variable (s : State) (y : Nat)

theorem State.rowBytes_eq : s.rowBytes y =
    (List.range s.width.toNat).flatMap fun x => (orderBytes s.corder (s.pixel x y)).bytes := rfl

@[simp] theorem State.rowBytes_length : (s.rowBytes y).length = 3 * s.width.toNat := by
  rw [s.rowBytes_eq, length_flatMap_bytes]

/-- Byte k of pixel x stands at 3x + k. -/
theorem State.rowBytes_getElem? {x k : Nat} (hx : x < s.width.toNat) (hk : k < 3) :
    (s.rowBytes y)[3 * x + k]? = (orderBytes s.corder (s.pixel x y)).bytes[k]? := by
  have h := getElem?_flatMap_range (f := fun x => (orderBytes s.corder (s.pixel x y)).bytes) hx (k := k) hk
  rwa [length_flatMap_bytes, ← s.rowBytes_eq] at h

variable (m : Memory) (a : Nat)

/-- A row written at offset a: byte k of pixel x is read at a + 3x + k (R87, R291). -/
theorem State.read_row_inside {x k : Nat} (hx : x < s.width.toNat) (hk : k < 3) :
    Memory.read (Memory.writeBytes m a (s.rowBytes y)) (a + 3 * x + k) =
      (orderBytes s.corder (s.pixel x y)).bytes.getD k 0 := by
  rw [Memory.read_writeBytes, s.rowBytes_length, if_pos (by omega), Nat.add_assoc, Nat.add_sub_cancel_left,
    List.getD_eq_getElem?_getD, s.rowBytes_getElem? y hx hk, List.getD_eq_getElem?_getD]

theorem State.read_row_outside {b : Nat} (hb : b < a ∨ a + 3 * s.width.toNat ≤ b) :
    Memory.read (Memory.writeBytes m a (s.rowBytes y)) b = Memory.read m b := by
  rw [Memory.read_writeBytes, s.rowBytes_length, if_neg (by omega)]

/-- Every sample that row y shows is valid (R292). -/
theorem State.ready_iff : s.ready y = true ↔ ∀ x < s.width.toNat, ∀ c < s.nf.toNat,
    (Plane.sample? (s.planes.get c) (s.sampleX c x) (s.sampleY c y)).isSome = true := by
  simp only [State.ready, List.all_eq_true, List.mem_range, State.forall_frameComps]

end

theorem State.not_ready {s : State} {y : Nat} (h : ∃ x < s.width.toNat, ∃ c < s.nf.toNat,
    Plane.sample? (s.planes.get c) (s.sampleX c x) (s.sampleY c y) = none) : ¬ s.ready y = true := by
  obtain ⟨x, hx, c, hc, hnone⟩ := h
  exact fun hr => Option.isSome_iff_ne_none.mp ((s.ready_iff y).mp hr x hx c hc) hnone

/-- CC_ROW in STARTED goes on to its own three checks (R293). -/
theorem exec_ccRow_of_started {s : State} (hs : s.sess = .started) :
    exec .ccRow s = complete 0x1C s (do
      require (s.row.toNat < s.height.toNat) (.precond .rowLimit)
      require (s.argOffset + 3 * s.width.toNat ≤ s.outLen) (.precond .outRange)
      require (s.ready s.row.toNat = true) (.precond .notReady)
      .ok { s with
            outMem := Memory.writeBytes s.outMem s.argOffset (s.rowBytes s.row.toNat)
            row := s.row + 1
            res := (s.row + 1).setWidth 32 }) := by
  simp only [exec, execCcRow, rowChecks, bind_assoc]
  exact complete_started hs

/-- A row counter below HEIGHT does not wrap. -/
theorem State.succ_row_setWidth {s : State} (h : s.row.toNat < s.height.toNat) :
    (s.row + 1).setWidth 32 = BitVec.ofNat 32 (s.row.toNat + 1) := by
  bv_omega

/-- Settles O52: its three checks fail one at a time, or the row is written and read back inside and outside. -/
theorem ccRowWritesRow : Obligations.CcRowWritesRow := by
  unfold Obligations.CcRowWritesRow
  refine fun s => ⟨commandFront .ccRow s, fun hs => ⟨fun hr => ?_, fun hr ho => ?_, fun hr ho hn => ?_, fun hr ho hv => ?_⟩⟩
  · rw [exec_ccRow_of_started hs, complete_require_precond (Nat.not_lt.mpr hr)]
  · rw [exec_ccRow_of_started hs, complete_require hr]
    exact complete_require_precond (Nat.not_le.mpr ho)
  · rw [exec_ccRow_of_started hs, complete_require hr]
    exact (complete_require ho).trans (complete_require_precond (State.not_ready hn))
  · have hrun := (Completes.ccRow hs hr ho ((s.ready_iff _).mpr hv)).exec_eq
    rw [State.succ_row_setWidth hr] at hrun
    refine ⟨_, hrun, fun x hx => ?_, fun b hb => s.read_row_outside _ _ _ hb⟩
    have hread := fun k (hk : k < 3) => s.read_row_inside s.row.toNat s.outMem s.argOffset hx hk
    dsimp only
    rw [← orderBytes_b0, ← orderBytes_b1 s.corder, ← orderBytes_b2]
    exact ⟨hread 0 (by decide), hread 1 (by decide), hread 2 (by decide)⟩

/-- A gray pixel is the same in both channel orders (R290). -/
@[simp] theorem orderBytes_convGray (o : ChannelOrder) (g : Byte) : orderBytes o (convGray g) = convGray g := by
  cases o <;> rfl

/-- Neutral chroma adds nothing to the luminance (R296). -/
theorem convYcc_neutral (y : Byte) : convYcc y 128 128 = convGray y := by
  have hclamp : clamp8 y.toNat = y := BitVec.eq_of_toNat_eq (by have := clamp8_toNat y.toNat; omega)
  simp [convYcc, convGray, asr, hclamp]

/-- Settles O54: with one component the row's pixels are gray. -/
theorem grayPixelsHaveEqualChannels : Obligations.GrayPixelsHaveEqualChannels := by
  unfold Obligations.GrayPixelsHaveEqualChannels
  refine ⟨fun s t hnf h hok x hx => ?_, convYcc_neutral⟩
  obtain ⟨u, hu, rfl⟩ := exec_eq_ok h hok
  cases hu
  have hread := fun k (hk : k < 3) => s.read_row_inside s.row.toNat s.outMem s.argOffset hx hk
  simp only [s.pixel_of_gray hnf, orderBytes_convGray] at hread
  exact ⟨(hread 0 (by decide)).trans (hread 1 (by decide)).symm, (hread 1 (by decide)).trans (hread 2 (by decide)).symm⟩

end Sys2Proof.Machine

/-! # The family 60_exceptions.md: how a command ends, the state table, FAILED -/

/-! ## O11 and O12: the three results, and what a DecodeError leaves -/

namespace Sys2Proof.Machine

/-- Settles O11: a command answers a next state, in one of the cases of `exec_cases`. -/
theorem everyCommandEnds : Obligations.EveryCommandEnds := by
  unfold Obligations.EveryCommandEnds
  intro i s
  obtain ⟨r, hr⟩ := exec_complete i s
  obtain ⟨t, ht⟩ := complete_next i.op s r
  have hexec : exec i s = .next t := hr.trans ht
  refine ⟨t, hexec, ?_⟩
  rcases exec_cases hexec with ⟨u, -, rfl⟩ | ⟨c, rfl⟩ | ⟨c, rfl⟩
  · exact .inl rfl
  · exact .inr (.inl rfl)
  · exact .inr (.inr ⟨rfl, c, rfl⟩)

/-- R36, field by field; every reserved field is 0. -/
theorem errWord_fields (op : BitVec 6) (c : ErrCause) :
    (errWord op c).extractLsb' 0 2 = c.errClass.code ∧ (errWord op c).extractLsb' 2 6 = 0 ∧
    (errWord op c).extractLsb' 8 8 = c.code ∧ (errWord op c).extractLsb' 16 10 = 0 ∧
    (errWord op c).extractLsb' 26 6 = op := by
  unfold errWord
  simp (disch := decide) only [extract_append_high, BitVec.extractLsb'_append_eq_right, Nat.reduceSub,
    BitVec.extractLsb'_eq_self, BitVec.ofNat_eq_ofNat, and_self]

/-- A command whose RESULT is ERROR took R321's entry. -/
theorem exec_eq_error {i : Instr} {s t : State} (h : exec i s = .next t) (hr : t.result = .error) :
    ∃ c, t = s.decodeError i.op c := by
  rcases exec_cases h with ⟨u, -, rfl⟩ | he | ⟨c, rfl⟩
  · cases hr
  · exact he
  · cases hr

/-- Settles O12: R321's entry writes ERR as `errWord_fields` says and leaves the rest. -/
theorem decodeErrorEffects : Obligations.DecodeErrorEffects := by
  unfold Obligations.DecodeErrorEffects
  intro i s t h hr
  obtain ⟨c, rfl⟩ := exec_eq_error h hr
  exact ⟨⟨c, errWord_fields i.op c⟩, rfl, rfl, rfl⟩

end Sys2Proof.Machine

/-! ## O13: the state table -/

namespace Sys2Proof.Machine

/-- A DecodeError, or a refusal that is one of the state causes only where R320's table gives it for command i. -/
def Raise.FromTable (i : Instr) (s : State) : Raise → Prop
  | .decodeError _ => True
  | .precond c => c ∈ [PvCause.wrongState, .scanActive, .noScan] → stateTable i s.column = some c

theorem raisesOnly_stateCheck_fromTable {i : Instr} {a : Allowed} (s : State) (ha : allowedStates i = some a) :
    RaisesOnly (Raise.FromTable i s) (stateCheck a s) := by
  refine raisesOnly_stateCheck.mpr fun c hc _ => ?_
  rw [stateTable_column, ha]
  exact hc

/-- A command raises the state causes by its state check only, so only where R320's table gives them. -/
theorem exec_raises_fromTable (i : Instr) (s : State) :
    ∃ r, exec i s = complete i.op s r ∧ RaisesOnly (Raise.FromTable i s) r := by
  have hstate {a : Allowed} (ha : allowedStates i = some a) := raisesOnly_stateCheck_fromTable s ha
  have hstream : ∀ c, Raise.FromTable i s (.decodeError c) := fun _ => trivial
  cases i
  case sreset | abort | ccPix =>
    simp only [exec, execSreset, execAbort, execCcPix]
    exact ⟨_, rfl, raisesOnly_ok _⟩
  case finish =>
    refine ⟨_, congrArg (complete 0x04 s) (stateCheck_started_bind s _), ?_⟩
    simp [Raise.FromTable, hstate rfl]
  case scanEnd =>
    refine ⟨_, rfl, ?_⟩
    cases hstop : s.segment.stop <;> simp [Raise.FromTable, hstate rfl, hstop]
  all_goals
    refine ⟨_, rfl, ?_⟩
    simp [rowChecks, Raise.FromTable, hstate rfl, raisesOnly_buildHuff hstream, Segment.decodeSym, Segment.nextBits,
      Segment.raisesOnly_symSearch hstream, Segment.raisesOnly_takeBits hstream, Segment.raisesOnly_recvExt hstream,
      State.raisesOnly_decodeBlock hstream, State.raisesOnly_restartIfDue hstream,
      raisesOnly_foldlM (State.raisesOnly_mcuBlock hstream)]

theorem stateTable_of_refused {i : Instr} {s : State} {c : PvCause} (hc : c ∈ [PvCause.wrongState, .scanActive, .noScan])
    (h : exec i s = .next (s.refuse i.op c)) : stateTable i s.column = some c := by
  obtain ⟨r, hr, hraises⟩ := exec_raises_fromTable i s
  exact hraises _ (eq_precond_of_complete_refuse (hr.symm.trans h)) hc

/-- Settles O13: R320's table by `exec_stateRefused` and `stateTable_of_refused`. -/
theorem stateTableEnforced : Obligations.StateTableEnforced := by
  unfold Obligations.StateTableEnforced
  refine fun i s => ⟨fun c hwf hc => exec_stateRefused hwf hc, fun hnone c hc h => ?_⟩
  exact nomatch hnone.symm.trans (stateTable_of_refused hc h)

end Sys2Proof.Machine

/-! ## O14: FAILED -/

namespace Sys2Proof.Machine

section
variable {i : Instr} {s : State} (hs : s.sess = .failed) (habort : i ≠ .abort) (hsreset : i ≠ .sreset) (hpix : i ≠ .ccPix)
include hs habort hsreset hpix

/-- The FAILED column of R320's table. -/
theorem stateTable_failed : stateTable i s.column = some .wrongState := by
  rw [State.column, hs]
  cases i
  case sreset | abort | ccPix => contradiction
  all_goals rfl

/-- In FAILED every command but ABORT, SRESET and CC_PIX is refused, for its fields or for the state. -/
theorem exec_failed_refused : ∃ c, exec i s = .next (s.refuse i.op c) := by
  cases hwf : i.wf with
  | false => exact ⟨_, exec_badField hwf s⟩
  | true => exact ⟨_, exec_stateRefused hwf (stateTable_failed hs habort hsreset hpix)⟩

end

/-- In FAILED every command but ABORT and SRESET raises no DecodeError and leaves STATE and ERR. -/
theorem exec_failed_keeps {i : Instr} {s t : State} (hs : s.sess = .failed) (habort : i ≠ .abort) (hsreset : i ≠ .sreset)
    (h : exec i s = .next t) : t.result ≠ .error ∧ t.sess = .failed ∧ t.err = s.err := by
  by_cases hpix : i = .ccPix
  · subst hpix
    cases Completes.ccPix.exec_eq.symm.trans h
    simp [hs]
  · obtain ⟨c, hc⟩ := exec_failed_refused hs habort hsreset hpix
    cases hc.symm.trans h
    simp [hs]

/-- Settles O14: the two commands that leave FAILED complete there, and the others keep it. -/
theorem failedLeftOnlyByAbortOrSreset : Obligations.FailedLeftOnlyByAbortOrSreset := by
  unfold Obligations.FailedLeftOnlyByAbortOrSreset
  intro i s t hs h
  rcases eq_or_ne i .abort with rfl | habort
  · cases (Completes.abortSession (.inr hs)).exec_eq.symm.trans h
    simp
  rcases eq_or_ne i .sreset with rfl | hsreset
  · cases Completes.sreset.exec_eq.symm.trans h
    simp [State.reset]
  obtain ⟨hresult, hkeeps⟩ := exec_failed_keeps hs habort hsreset h
  refine ⟨hresult, fun _ _ => hkeeps, fun hwf _ _ hpix => ?_, fun hi => absurd hi habort, fun hi => absurd hi hsreset⟩
  have hrefused := exec_stateRefused hwf (stateTable_failed hs habort hsreset hpix)
  exact Host.Outcome.next.inj (h.symm.trans hrefused)

end Sys2Proof.Machine

/-! # The family 70_reset_and_hazards.md: reset, and the lifecycle of STATE -/

/-! ## O21: hardware reset and SRESET -/

namespace Sys2Proof.Machine

/-- A hardware reset resets the block and leaves the host's side (R350). -/
theorem step_hardwareReset {s : State} {rest : List HostOp} (hq : s.hostq = .hardwareReset :: rest) :
    step s = .next { s.resetBlock with hostq := rest } :=
  step_cons hq

/-- Settles O21: `State.resetBlock` is the reset state with the host's side kept, and the RESULT of SRESET, OK, is the reset
value of RESULT. -/
theorem resetAndSreset : Obligations.ResetAndSreset := by
  unfold Obligations.ResetAndSreset
  exact fun s rest => ⟨fun hq => step_hardwareReset hq, decodeOfEncode .sreset, Completes.sreset.exec_eq⟩

end Sys2Proof.Machine

/-! ## O15: the lifecycle -/

namespace Sys2Proof.Machine

/-- Outside EMPTY and STARTED, a command that the field check and R320's table let through has no other check to fail. -/
theorem exists_completes_of_closed {i : Instr} {s : State} (hwf : i.wf = true) (hcol : stateTable i s.column = none)
    (hempty : s.sess ≠ .empty) (hstarted : s.sess ≠ .started) : ∃ u, Completes i s u := by
  rw [stateTable_column] at hcol
  cases i
  case sreset => exact ⟨_, .sreset⟩
  case ccPix => exact ⟨_, .ccPix⟩
  case abort =>
    by_cases hfailed : s.sess = .failed
    · exact ⟨_, .abortSession (.inr hfailed)⟩
    · exact ⟨_, .abortNoop ⟨hstarted, hfailed⟩⟩
  case rdBuf sel idx =>
    obtain ⟨hsel, hidx⟩ : sel.toNat ≤ 3 ∧ (sel.toNat ≠ 3 ∨ idx.toNat ≤ 2) := by simpa [Instr.wf] using hwf
    exact ⟨_, .rdBuf hsel hidx (stateCause_notFailed.mp hcol)⟩
  all_goals
    simp [allowedStates, stateCause_emptyOnly, stateCause_emptyOrNoScan, stateCause_startedNoScan, stateCause_startedScan,
      stateCause_started, hempty, hstarted] at hcol

/-- Outside EMPTY and STARTED no command raises a DecodeError: it is refused, or it completes. -/
theorem exec_closed_ne_error {i : Instr} {s t : State} (h : exec i s = .next t) (hempty : s.sess ≠ .empty)
    (hstarted : s.sess ≠ .started) : t.result ≠ .error := by
  cases hwf : i.wf with
  | false => cases (exec_badField hwf s).symm.trans h; simp
  | true =>
    cases hcol : stateTable i s.column with
    | some c => cases (exec_stateRefused hwf hcol).symm.trans h; simp
    | none =>
      obtain ⟨u, hu⟩ := exists_completes_of_closed hwf hcol hempty hstarted
      cases hu.exec_eq.symm.trans h
      simp

/-- A DecodeError comes from EMPTY or STARTED (R352). -/
theorem sess_of_exec_error {i : Instr} {s t : State} (h : exec i s = .next t) (hr : t.result = .error) :
    s.sess = .empty ∨ s.sess = .started := by
  by_contra hclosed
  obtain ⟨hempty, hstarted⟩ := not_or.mp hclosed
  exact exec_closed_ne_error h hempty hstarted hr

/-- The rows of R352's table for a command other than SRESET that completes: START, FINISH, ABORT and CC_ROW have theirs, and
every other command leaves STATE. -/
theorem Completes.lifecycle {i : Instr} {s u : State} (h : Completes i s u) (hi : i ≠ .sreset) :
    (∃ ord, i = .start ord ∧ s.sess = .empty ∧ u.sess = .started ∧ u.row = 0) ∨
    (i = .finish ∧ s.sess = .started ∧ u.sess = .finished) ∨
    (i = .abort ∧ (s.sess = .started ∨ s.sess = .failed) ∧ u.sess = .aborted) ∨
    (i = .ccRow ∧ s.sess = .started ∧ u.sess = .started ∧ u.row = s.row + 1) ∨
    ((∀ ord, i ≠ .start ord) ∧ i ≠ .finish ∧ i ≠ .ccRow ∧
      (i = .abort → s.sess ≠ .started ∧ s.sess ≠ .failed) ∧ u.sess = s.sess) := by
  cases h
  case sreset => exact absurd rfl hi
  case start ord _ hs _ _ _ => exact .inl ⟨ord, rfl, hs, rfl, rfl⟩
  case finish hs _ _ _ => exact .inr (.inl ⟨rfl, hs, rfl⟩)
  case abortSession hs => exact .inr (.inr (.inl ⟨rfl, hs, rfl⟩))
  case ccRow hs _ _ _ => exact .inr (.inr (.inr (.inl ⟨rfl, hs, hs, rfl⟩)))
  all_goals refine .inr (.inr (.inr (.inr ?_)))
  case abortNoop hs => exact ⟨nofun, nofun, nofun, fun _ => hs, rfl⟩
  case decBlock hd =>
    obtain ⟨r, -, -, rfl⟩ := State.decodeBlock_cases hd
    exact ⟨nofun, nofun, nofun, nofun, rfl⟩
  case decMcu h1 h2 =>
    cases State.sameButMcu_decMcu h1 h2
    exact ⟨nofun, nofun, nofun, nofun, rfl⟩
  all_goals simp

/-- Settles O15: a completion by `Completes.lifecycle`, a DecodeError by `sess_of_exec_error`; a refusal writes no STATE. -/
theorem lifecycleTransitions : Obligations.LifecycleTransitions := by
  unfold Obligations.LifecycleTransitions
  intro i s t h
  have herror := sess_of_exec_error h
  rcases eq_or_ne i .sreset with rfl | hi
  · cases Completes.sreset.exec_eq.symm.trans h
    simp [State.reset]
  refine ⟨fun hsreset => absurd hsreset hi, ?_⟩
  rcases exec_cases h with ⟨u, hu, rfl⟩ | ⟨c, rfl⟩ | ⟨c, rfl⟩
  · exact ⟨nofun, nofun, fun _ _ => hu.lifecycle hi⟩
  · exact ⟨nofun, fun hr => ⟨herror hr, rfl⟩, nofun⟩
  · exact ⟨fun _ => rfl, nofun, nofun⟩

end Sys2Proof.Machine
